-- ==== Sys2Proof/Word.lean ====
section
/-! DEFINITION. The word types of the machine (spec 00_scope.md R7, 10_state.md R16, 30_encoding.md R59, R64). -/

namespace Sys2Proof

/-- A Byte: an unsigned 8-bit value whose arithmetic wraps modulo 256 (R7). -/
abbrev Byte := BitVec 8

/-- A 16-bit program-memory word (R29, R59). -/
abbrev Word := BitVec 16

/-- A 16-bit effective data address (R16, R40). -/
abbrev DataAddr := BitVec 16

/-- A 12-bit absolute data address of MOVFF (R47). -/
abbrev MovffAddr := BitVec 12

end Sys2Proof
end

