-- ==== Sys2Proof/Syntax.lean ====
section
/-! DEFINITION. The instructions: one constructor per row of the opcode table (spec 30_encoding.md R63), in the table's
order. -/

namespace Sys2Proof

/-- The destination selector d: 0 is the accumulator W, 1 is the file register (R64). -/
inductive Dest where
  | w
  | file
deriving DecidableEq, Repr

/-- The access bit a: 0 is direct (bank 0), 1 is banked (R64). -/
inductive Access where
  | direct
  | banked
deriving DecidableEq, Repr

/-- The instructions of R63. f is an 8-bit file offset, k an 8-bit literal, fs and fd are 12-bit absolute addresses (R64).
NOP is one instruction with two encodings (R62, R63); each row has its constructor, and `nopF` keeps the 12 bits its
word leaves free (log entry 6). -/
inductive Instr where
  | addwf (f : Byte) (d : Dest) (a : Access)
  | addlw (k : Byte)
  | addwfc (f : Byte) (d : Dest) (a : Access)
  | incf (f : Byte) (d : Dest) (a : Access)
  | decf (f : Byte) (d : Dest) (a : Access)
  | andwf (f : Byte) (d : Dest) (a : Access)
  | andlw (k : Byte)
  | iorwf (f : Byte) (d : Dest) (a : Access)
  | iorlw (k : Byte)
  | comf (f : Byte) (d : Dest) (a : Access)
  | clrf (f : Byte) (a : Access)
  | movf (f : Byte) (d : Dest) (a : Access)
  | movff (fs fd : MovffAddr)
  | movwf (f : Byte) (a : Access)
  | mulwf (f : Byte) (a : Access)
  | nop
  | nopF (x : BitVec 12)
  | incfsz (f : Byte) (d : Dest) (a : Access)
  | decfsz (f : Byte) (d : Dest) (a : Access)
  | infsnz (f : Byte) (d : Dest) (a : Access)
  | dcfsnz (f : Byte) (d : Dest) (a : Access)
  | cpfseq (f : Byte) (a : Access)
  | cpfsgt (f : Byte) (a : Access)
  | cpfslt (f : Byte) (a : Access)
deriving DecidableEq, Repr

end Sys2Proof
end

