-- ==== Sys2Proof/Decode.lean ====
section
/-! DEFINITION. The decoder (spec 30_encoding.md R65), total on every pair of words and rejecting by name; after it the
encoder, written from the formats R60 to R62, the opcode table R63 and the width R66. -/

namespace Sys2Proof

/-- Why a pair of words is no instruction. -/
inductive DecodeError where
  /-- F_UNSUPPORTED: the first word is outside the subset (R68, R142). -/
  | unsupported (w1 : Word)
  /-- F_MOVFF_WORD2: the second word of a MOVFF does not begin with 1111 (R67, R143). -/
  | movffWord2 (w2 : Word)
deriving DecidableEq, Repr

/-- The meaning of the d bit (R64). -/
def Dest.ofBit : Bool → Dest
  | false => .w
  | true => .file

/-- The meaning of the a bit (R64). -/
def Access.ofBit : Bool → Access
  | false => .direct
  | true => .banked

/-- Format LIT, by bits 15:8 (R62, R65). -/
def decodeLit (op : BitVec 8) (k : Byte) : Option Instr :=
  if op = 0x0F#8 then some (.addlw k)
  else if op = 0x0B#8 then some (.andlw k)
  else if op = 0x09#8 then some (.iorlw k)
  else none

/-- Format BYTE_A, by bits 15:9 (R61, R65). -/
def decodeByteA (op : BitVec 7) (f : Byte) (a : Access) : Option Instr :=
  if op = 0b0000001#7 then some (.mulwf f a)
  else if op = 0b0110000#7 then some (.cpfslt f a)
  else if op = 0b0110001#7 then some (.cpfseq f a)
  else if op = 0b0110010#7 then some (.cpfsgt f a)
  else if op = 0b0110101#7 then some (.clrf f a)
  else if op = 0b0110111#7 then some (.movwf f a)
  else none

/-- Format BYTE_DA, by bits 15:10 (R60, R65). -/
def decodeByteDA (op : BitVec 6) (f : Byte) (d : Dest) (a : Access) : Option Instr :=
  if op = 0b000001#6 then some (.decf f d a)
  else if op = 0b000100#6 then some (.iorwf f d a)
  else if op = 0b000101#6 then some (.andwf f d a)
  else if op = 0b000111#6 then some (.comf f d a)
  else if op = 0b001000#6 then some (.addwfc f d a)
  else if op = 0b001001#6 then some (.addwf f d a)
  else if op = 0b001010#6 then some (.incf f d a)
  else if op = 0b001011#6 then some (.decfsz f d a)
  else if op = 0b001111#6 then some (.incfsz f d a)
  else if op = 0b010010#6 then some (.infsnz f d a)
  else if op = 0b010011#6 then some (.dcfsnz f d a)
  else if op = 0b010100#6 then some (.movf f d a)
  else none

/-- The one-word instructions that carry operands, in the order of R65's three case blocks. -/
def decodeOneWord (w1 : Word) : Option Instr :=
  let f := w1.extractLsb' 0 8
  let d := Dest.ofBit (w1.getLsbD 9)
  let a := Access.ofBit (w1.getLsbD 8)
  ((decodeLit (w1.extractLsb' 8 8) f).or (decodeByteA (w1.extractLsb' 9 7) f a)).or
    (decodeByteDA (w1.extractLsb' 10 6) f d a)

/-- Decode(w1, w2) of R65: the word at the PC and the word after it. -/
def decode (w1 w2 : Word) : Except DecodeError Instr :=
  if w1 = 0x0000#16 then .ok .nop
  else if w1.extractLsb' 12 4 = 0b1111#4 then .ok (.nopF (w1.extractLsb' 0 12))
  else if w1.extractLsb' 12 4 = 0b1100#4 then
    if w2.extractLsb' 12 4 = 0b1111#4 then .ok (.movff (w1.extractLsb' 0 12) (w2.extractLsb' 0 12))
    else .error (.movffWord2 w2)
  else
    match decodeOneWord w1 with
    | some i => .ok i
    | none => .error (.unsupported w1)

/-- The d bit of a destination (R64). -/
def Dest.toBit : Dest → BitVec 1
  | .w => 0#1
  | .file => 1#1

/-- The a bit of an access mode (R64). -/
def Access.toBit : Access → BitVec 1
  | .direct => 0#1
  | .banked => 1#1

/-- Format BYTE_DA (R60). -/
def encodeByteDA (op : BitVec 6) (f : Byte) (d : Dest) (a : Access) : Word := op ++ d.toBit ++ a.toBit ++ f

/-- Format BYTE_A (R61). -/
def encodeByteA (op : BitVec 7) (f : Byte) (a : Access) : Word := op ++ a.toBit ++ f

/-- Format LIT (R62). -/
def encodeLit (op : BitVec 8) (k : Byte) : Word := op ++ k

/-- The words of an instruction, from the patterns of R63: the first word, and the second word of a MOVFF. -/
def encode : Instr → Word × Option Word
  | .addwf f d a => (encodeByteDA 0b001001#6 f d a, none)
  | .addlw k => (encodeLit 0b00001111#8 k, none)
  | .addwfc f d a => (encodeByteDA 0b001000#6 f d a, none)
  | .incf f d a => (encodeByteDA 0b001010#6 f d a, none)
  | .decf f d a => (encodeByteDA 0b000001#6 f d a, none)
  | .andwf f d a => (encodeByteDA 0b000101#6 f d a, none)
  | .andlw k => (encodeLit 0b00001011#8 k, none)
  | .iorwf f d a => (encodeByteDA 0b000100#6 f d a, none)
  | .iorlw k => (encodeLit 0b00001001#8 k, none)
  | .comf f d a => (encodeByteDA 0b000111#6 f d a, none)
  | .clrf f a => (encodeByteA 0b0110101#7 f a, none)
  | .movf f d a => (encodeByteDA 0b010100#6 f d a, none)
  | .movff fs fd => (0b1100#4 ++ fs, some (0b1111#4 ++ fd))
  | .movwf f a => (encodeByteA 0b0110111#7 f a, none)
  | .mulwf f a => (encodeByteA 0b0000001#7 f a, none)
  | .nop => (0x0000#16, none)
  | .nopF x => (0b1111#4 ++ x, none)
  | .incfsz f d a => (encodeByteDA 0b001111#6 f d a, none)
  | .decfsz f d a => (encodeByteDA 0b001011#6 f d a, none)
  | .infsnz f d a => (encodeByteDA 0b010010#6 f d a, none)
  | .dcfsnz f d a => (encodeByteDA 0b010011#6 f d a, none)
  | .cpfseq f a => (encodeByteA 0b0110001#7 f a, none)
  | .cpfsgt f a => (encodeByteA 0b0110010#7 f a, none)
  | .cpfslt f a => (encodeByteA 0b0110000#7 f a, none)

/-- Width (R66): the bytes the step advances past an instruction. -/
def Instr.width : Instr → Nat
  | .movff _ _ => 4
  | .addwf _ _ _ | .addlw _ | .addwfc _ _ _ | .incf _ _ _ | .decf _ _ _ | .andwf _ _ _ | .andlw _ | .iorwf _ _ _
  | .iorlw _ | .comf _ _ _ | .clrf _ _ | .movf _ _ _ | .movwf _ _ | .mulwf _ _ | .nop | .nopF _ | .incfsz _ _ _
  | .decfsz _ _ _ | .infsnz _ _ _ | .dcfsnz _ _ _ | .cpfseq _ _ | .cpfsgt _ _ | .cpfslt _ _ => 2

/-- The mnemonic of an instruction (R63). -/
def Instr.mnemonic : Instr → String
  | .addwf _ _ _ => "ADDWF"
  | .addlw _ => "ADDLW"
  | .addwfc _ _ _ => "ADDWFC"
  | .incf _ _ _ => "INCF"
  | .decf _ _ _ => "DECF"
  | .andwf _ _ _ => "ANDWF"
  | .andlw _ => "ANDLW"
  | .iorwf _ _ _ => "IORWF"
  | .iorlw _ => "IORLW"
  | .comf _ _ _ => "COMF"
  | .clrf _ _ => "CLRF"
  | .movf _ _ _ => "MOVF"
  | .movff _ _ => "MOVFF"
  | .movwf _ _ => "MOVWF"
  | .mulwf _ _ => "MULWF"
  | .nop => "NOP"
  | .nopF _ => "NOP"
  | .incfsz _ _ _ => "INCFSZ"
  | .decfsz _ _ _ => "DECFSZ"
  | .infsnz _ _ _ => "INFSNZ"
  | .dcfsnz _ _ _ => "DCFSNZ"
  | .cpfseq _ _ => "CPFSEQ"
  | .cpfsgt _ _ => "CPFSGT"
  | .cpfslt _ _ => "CPFSLT"

/-- One row of the opcode map R63. -/
structure OpcodeRow where
  mnemonic : String
  pattern : Word
  mask : Word
deriving DecidableEq, Repr

/-- A word selects a row when `w & mask = match` (R63). -/
abbrev OpcodeRow.selects (r : OpcodeRow) (w : Word) : Prop := w &&& r.mask = r.pattern

/-- The opcode map of R63, in the order of its rows, kept apart from the decoder so that the two can be held against each
other. -/
def opcodeMap : List OpcodeRow :=
  [⟨"ADDWF", 0x2400#16, 0xFC00#16⟩, ⟨"ADDLW", 0x0F00#16, 0xFF00#16⟩, ⟨"ADDWFC", 0x2000#16, 0xFC00#16⟩,
    ⟨"INCF", 0x2800#16, 0xFC00#16⟩, ⟨"DECF", 0x0400#16, 0xFC00#16⟩, ⟨"ANDWF", 0x1400#16, 0xFC00#16⟩,
    ⟨"ANDLW", 0x0B00#16, 0xFF00#16⟩, ⟨"IORWF", 0x1000#16, 0xFC00#16⟩, ⟨"IORLW", 0x0900#16, 0xFF00#16⟩,
    ⟨"COMF", 0x1C00#16, 0xFC00#16⟩, ⟨"CLRF", 0x6A00#16, 0xFE00#16⟩, ⟨"MOVF", 0x5000#16, 0xFC00#16⟩] ++
  [⟨"MOVFF", 0xC000#16, 0xF000#16⟩, ⟨"MOVWF", 0x6E00#16, 0xFE00#16⟩, ⟨"MULWF", 0x0200#16, 0xFE00#16⟩,
    ⟨"NOP", 0x0000#16, 0xFFFF#16⟩, ⟨"NOP", 0xF000#16, 0xF000#16⟩, ⟨"INCFSZ", 0x3C00#16, 0xFC00#16⟩,
    ⟨"DECFSZ", 0x2C00#16, 0xFC00#16⟩, ⟨"INFSNZ", 0x4800#16, 0xFC00#16⟩, ⟨"DCFSNZ", 0x4C00#16, 0xFC00#16⟩,
    ⟨"CPFSEQ", 0x6200#16, 0xFE00#16⟩, ⟨"CPFSGT", 0x6400#16, 0xFE00#16⟩, ⟨"CPFSLT", 0x6000#16, 0xFE00#16⟩]

/-- The first and the second 16-bit word of an instruction whose bits are `w`, numbered from the first word's least
significant bit; every bit from `nbits` up is 0. Program memory holds whole words, so no byte order enters (R44, log entry
10). -/
def tableWords (nbits w : Nat) : Word × Word :=
  (BitVec.ofNat 16 (w % 2 ^ nbits), BitVec.ofNat 16 (w % 2 ^ nbits / 2 ^ 16))

/-- The instruction the decoder reads from a word numbered as the opcode table numbers it. -/
def decodeTableWord (nbits w : Nat) : Option Instr :=
  match decode (tableWords nbits w).1 (tableWords nbits w).2 with
  | .ok i => some i
  | .error _ => none

end Sys2Proof
end

