-- ==== Sys2Proof/Machine/Addresses.lean ====
section
/-! DEFINITION. The data addresses the block fixes (spec 00_scope.md R6, 20_memory.md R53): the six special registers and
the addresses MOVFF refuses. -/

namespace Sys2Proof.Machine

/-- ADDR_WREG, the accumulator (R6, R17). -/
def addrWreg : DataAddr := 0xFE8#16

/-- ADDR_BSR, the bank-select register (R6, R18). -/
def addrBsr : DataAddr := 0xFE0#16

/-- ADDR_STATUS, the status register (R6, R19). -/
def addrStatus : DataAddr := 0xFD8#16

/-- ADDR_STKPTR, the stack-pointer register (R6, R24). -/
def addrStkptr : DataAddr := 0xFFC#16

/-- ADDR_PRODL, the product low register (R6, R26). -/
def addrProdl : DataAddr := 0xFF3#16

/-- ADDR_PRODH, the product high register (R6, R26). -/
def addrProdh : DataAddr := 0xFF4#16

/-- MOVFF_RESERVED (R6, R130): PCL, PCLATH, TOSL, TOSH, TOSU. -/
def movffReserved : List MovffAddr := [0xFF9#12, 0xFFA#12, 0xFFD#12, 0xFFE#12, 0xFFF#12]

/-- Whether MOVFF refuses the address as an operand (R130). -/
def isMovffReserved (addr : MovffAddr) : Bool := movffReserved.contains addr

end Sys2Proof.Machine
end

