-- ==== Sys2Proof/Config.lean ====
section
/-! DEFINITION. What an implementation fixes (spec 00_scope.md R6) and the one free value of the spec
(10_state.md R31). -/

namespace Sys2Proof

/-- STACK_DEPTH: usable call-stack entries (R6, R30). -/
abbrev stackDepth : Nat := 31

/-- TRACE_CAPACITY: slots of the execution-trace ring (R6, R33). -/
abbrev traceCapacity : Nat := 128

/-- The OPEN parameter of R6: PMEM_BYTES, a power of two in [2, 2^21], held as log2 of PMEM_WORDS so that every value
of this type is a legal size and every legal size is a value. -/
structure Config where
  wordsLog2 : Fin 21
deriving DecidableEq, Repr

namespace Config

/-- PMEM_WORDS: number of 16-bit program-memory cells (R6). -/
def pmemWords (c : Config) : Nat := 2 ^ c.wordsLog2.val

/-- PMEM_BYTES: size of the program address space in bytes (R6). -/
def pmemBytes (c : Config) : Nat := 2 * c.pmemWords

/-- The size the spec's test vectors use, PMEM_BYTES = 0x10000. DESIGN CHOICE (log entry 1): the spec leaves the size
open; unsafe only for a claim about this one value. -/
def testVectors : Config := ⟨15⟩

/-- STACK_INIT (R6, R31): the draw for a call-stack slot that no successful Push has written since Reset, by the number of
Resets so far and the slot. A free value: it has no body, so nothing can be proved of it. The machine reduces it modulo
PMEM_BYTES, the range R31 gives. Log entry 3. -/
opaque stackInit : Nat → Nat → BitVec 21

end Config

end Sys2Proof
end

