-- ==== Sys2Proof/Machine/State.lean ====
section
/-! DEFINITION. The state of the block as plain data (spec 10_state.md R15), the reasons a step stops, and the state after
power-on (70_reset_and_hazards.md R160). -/

namespace Sys2Proof.Machine

/-- A memory of w-bit cells: (address, value) pairs in one canonical form, addresses strictly rising and no value 0; an
unlisted address reads as 0, the reset contents the spec states for data memory (R16, R37) and for program memory
(R29: 0x0000, the NOP word). A data memory is a list of `Host.Cell`. -/
abbrev Memory (w : Nat) := List (Nat × BitVec w)

/-- Which operand of a MOVFF a fault names (R130, R143). -/
inductive MovffOperand where
  | source
  | destination
deriving DecidableEq, Repr

/-- The step faults of R143 with the info each records beside the PC. -/
inductive StepFault where
  /-- F_UNSUPPORTED(w1), R142. -/
  | unsupported (w1 : Word)
  /-- F_MOVFF_WORD2(w2), R67. -/
  | movffWord2 (w2 : Word)
  /-- F_INVALID_OPERAND(which operand, its address), R130. -/
  | invalidOperand (operand : MovffOperand) (addr : MovffAddr)
deriving DecidableEq, Repr

/-- The fault record (kind, pc, info) of R35 and R144. -/
structure FaultRecord where
  kind : StepFault
  pc : Nat
deriving DecidableEq, Repr

/-- A trace event (R34). -/
inductive TraceEvent where
  | push (addr : Nat)
  | pop (addr : Nat)
  | stackOverflow (addr : Nat)
  | stackUnderflow
deriving DecidableEq, Repr

/-- A call-stack slot (R30, R31): not written by a successful Push since Reset, so its contents are a draw, or holding the
address the last successful Push wrote. -/
inductive StackSlot where
  | unwritten
  | holds (addr : Nat)
deriving DecidableEq, Repr

/-- The architectural state (R15). W, BSR, STATUS, STKPTR, PRODL and PRODH are cells of `dm` (R20). `cfg` and
`resetCount` are the model's own fields: the OPEN parameter (log entry 1) and the index of the current draws (log entry 4). -/
structure State where
  /-- The parameter PMEM_BYTES (R6), fixed for the machine: no operation changes it. -/
  cfg : Config
  /-- DM (R16), by data address. -/
  dm : Memory 8
  /-- pc (R28), a byte address below PMEM_BYTES. -/
  pc : Nat
  /-- PM (R29), by word index. -/
  pm : Memory 16
  /-- S (R30). -/
  stack : Vector StackSlot stackDepth
  /-- T (R33). -/
  trace : Vector TraceEvent traceCapacity
  /-- tw (R33). -/
  tw : Fin traceCapacity
  /-- tr (R33). -/
  tr : Fin traceCapacity
  /-- halted (R35). -/
  halted : Option FaultRecord
  /-- Resets so far: the index of the draws for unwritten stack slots. -/
  resetCount : Nat
deriving DecidableEq, Repr

/-- Why a step stops without a next state. -/
inductive Fault where
  /-- Raised by `step` when the latch is already set: the block is halted, and Step returns the recorded fault and changes
  nothing (R145). Safe: the spec gives no other behaviour until Reset. -/
  | halted (record : FaultRecord)
deriving DecidableEq, Repr

/-- Why an instruction has no meaning. -/
inductive Refusal where
  /-- Raised by an arm of `exec` whose instruction is not modelled; no arm raises it now. Safe. -/
  | notModelled (mnemonic : String)
deriving DecidableEq, Repr

/-- What an instruction or a step answers. -/
abbrev Answer := Host.Outcome State Fault Refusal

/-- Construction (R160): the reset values of R37 with program memory filled with NOP, for a given PMEM_BYTES. The trace
slots are unobservable and hold a filler (DESIGN CHOICE, log entry 5). -/
def State.powerOn (cfg : Config) : State where
  cfg := cfg
  dm := []
  pc := 0
  pm := []
  stack := Vector.replicate stackDepth .unwritten
  trace := Vector.replicate traceCapacity .stackUnderflow
  tw := 0
  tr := 0
  halted := none
  resetCount := 0

/-- The machine right after power-on, at the size the spec's test vectors use (DESIGN CHOICE, log entry 1). -/
def State.reset : State := .powerOn Config.testVectors

end Sys2Proof.Machine
end

