-- ==== Sys2Proof/Machine/Ops.lean ====
section
/-! DEFINITION. The shared operations: memory, registers, the program counter, the execution trace, the call stack, raising
a fault, and Reset. -/

namespace Sys2Proof.Machine

/-! ### Memory cells -/

namespace Memory

/-- The value of a cell: the first pair with that address, else 0. -/
def read {w : Nat} : Memory w → Nat → BitVec w
  | [], _ => 0#w
  | (b, x) :: m, a => if b = a then x else read m a

/-- The memory without any pair at the address. -/
def erase {w : Nat} : Memory w → Nat → Memory w
  | [], _ => []
  | (b, x) :: m, a => if b = a then erase m a else (b, x) :: erase m a

/-- The memory with a pair put before the first greater address. -/
def insert {w : Nat} : Memory w → Nat → BitVec w → Memory w
  | [], a, v => [(a, v)]
  | (b, x) :: m, a, v => if a < b then (a, v) :: (b, x) :: m else (b, x) :: insert m a v

/-- Store a value in a cell; storing 0 unlists it, which keeps the form canonical. -/
def write {w : Nat} (m : Memory w) (a : Nat) (v : BitVec w) : Memory w :=
  if v = 0#w then Memory.erase m a else Memory.insert (Memory.erase m a) a v

/-- Every address of the list is in [lo, hi), addresses rise strictly and no value is 0. -/
def wfFrom {w : Nat} (hi : Nat) : Nat → Memory w → Bool
  | _, [] => true
  | lo, (b, x) :: m => decide (lo ≤ b) && decide (b < hi) && decide (x ≠ 0#w) && wfFrom hi (b + 1) m

/-- The canonical form of a memory of `size` cells. -/
def wf {w : Nat} (size : Nat) (m : Memory w) : Bool := wfFrom size 0 m

end Memory

namespace State

/-! ### Data memory (R39 to R43) -/

/-- MemRead(ea, 1) (R42). -/
def memRead (s : State) (ea : DataAddr) : Byte := Memory.read s.dm ea.toNat

/-- MemWrite(ea, 1, v) (R43). -/
def memWrite (s : State) (ea : DataAddr) (v : Byte) : State := { s with dm := Memory.write s.dm ea.toNat v }

/-- W (R17). -/
def w (s : State) : Byte := s.memRead addrWreg

/-- BSR (R18). -/
def bsr (s : State) : Byte := s.memRead addrBsr

/-- STATUS (R19). -/
def status (s : State) : Byte := s.memRead addrStatus

/-- STKPTR (R24). -/
def stkptr (s : State) : Byte := s.memRead addrStkptr

/-- PRODL (R26). -/
def prodl (s : State) : Byte := s.memRead addrProdl

/-- PRODH (R26). -/
def prodh (s : State) : Byte := s.memRead addrProdh

/-! ### Program memory and fetch (R50, R51, R114) -/

/-- PMRead(addr) (R50): bit 0 of the byte address is dropped; a fetch address is first reduced modulo PMEM_BYTES. -/
def pmRead (s : State) (addr : Nat) : Word := Memory.read s.pm (addr % s.cfg.pmemBytes / 2)

/-- PMWrite(addr, w) on addresses in range (R51); an address is reduced like a fetch address. -/
def pmWrite (s : State) (addr : Nat) (v : Word) : State :=
  { s with pm := Memory.write s.pm (addr % s.cfg.pmemBytes / 2) v }

/-- w1 of R114: the word at the PC. -/
def fetch1 (s : State) : Word := s.pmRead s.pc

/-- w2 of R114: the word after it. -/
def fetch2 (s : State) : Word := s.pmRead (s.pc + 2)

/-! ### Program counter (R104, R106) -/

/-- `pc <- target` (R104), for any integer target: the Euclidean remainder by PMEM_BYTES. -/
def setPc (s : State) (target : Int) : State := { s with pc := (target % (s.cfg.pmemBytes : Int)).toNat }

/-- PCAdvance(delta) (R106). -/
def pcAdvance (s : State) (delta : Int) : State := s.setPc (s.pc + delta)

/-! ### Execution trace (R109 to R112) -/

/-- TraceRecord(e) (R110). -/
def traceRecord (s : State) (e : TraceEvent) : State :=
  { s with
    tr := if s.tw + 1 = s.tr then s.tr + 1 else s.tr
    trace := s.trace.set s.tw.val e
    tw := s.tw + 1 }

/-- TraceRead() (R112): the oldest unread event, or none when the trace is exhausted. -/
def traceRead (s : State) : State × Option TraceEvent :=
  if s.tr = s.tw then (s, none) else ({ s with tr := s.tr + 1 }, some s.trace[s.tr.val])

/-! ### Call stack (R97 to R101) -/

/-- SP, bits 4:0 of STKPTR (R24). -/
def sp (s : State) : BitVec 5 := s.stkptr.extractLsb' 0 5

/-- The address in a slot: the one pushed there, or for a slot not written since Reset its draw, reduced to the range
[0, PMEM_BYTES) of R31 (log entry 3). Only slots 0 to 30 exist; Pop asks for no other (R30). -/
def stackValue (s : State) (n : Nat) : Nat :=
  match s.stack[n]? with
  | some (.holds addr) => addr
  | some .unwritten => (Config.stackInit s.resetCount n).toNat % s.cfg.pmemBytes
  | none => (Config.stackInit s.resetCount n).toNat % s.cfg.pmemBytes

/-- Push(addr) for an address in range (R100). -/
def push (s : State) (addr : Nat) : State :=
  if s.sp = 31#5 then (s.memWrite addrStkptr (s.stkptr ||| 0x80#8)).traceRecord (.stackOverflow addr)
  else
    (({ s with stack := s.stack.setIfInBounds s.sp.toNat (.holds addr) }).memWrite addrStkptr
      ((s.stkptr &&& 0xE0#8) ||| (s.sp + 1#5).setWidth 8)).traceRecord (.push addr)

/-- Pop() (R101): the popped address, or none when the stack is empty. -/
def pop (s : State) : State × Option Nat :=
  if s.sp = 0#5 then ((s.memWrite addrStkptr (s.stkptr ||| 0x40#8)).traceRecord .stackUnderflow, none)
  else
    let n := s.sp - 1#5
    let v := s.stackValue n.toNat
    ((s.memWrite addrStkptr ((s.stkptr &&& 0xE0#8) ||| n.setWidth 8)).traceRecord (.pop v), some v)

/-! ### Faults and Reset -/

/-- `raise Fault(kind, info)` inside a step (R144): the latch takes the record and nothing else changes. Every fault of a
step is raised before its first write (R146), so there is nothing to undo. There is no trap entry and no return from one
(R152, R153). -/
def raise (s : State) (kind : StepFault) : State := { s with halted := some ⟨kind, s.pc⟩ }

/-- Reset (R159): the values of R37 in one operation; program memory is kept and the stack slots become new draws. -/
def doReset (s : State) : State := { powerOn s.cfg with pm := s.pm, resetCount := s.resetCount + 1 }

end State

/-- The fault a failed decode raises (R65). -/
def StepFault.ofDecode : DecodeError → StepFault
  | .unsupported w1 => .unsupported w1
  | .movffWord2 w2 => .movffWord2 w2

/-- A decode failure taken as a step fault: the answer is the state with the latch set (R144, log entry 2). -/
def raiseDecode (e : DecodeError) (s : State) : Answer := .next (s.raise (.ofDecode e))

/-- The end of an instruction that did not fault (R114): `pc <- pc + width + (skip ? 2 : 0)`. Each meaning ends in it, which
R115 allows (log entry 7). -/
def finish (s : State) (width : Int) (skip : Bool) : Answer := .next (s.pcAdvance (width + if skip then 2 else 0))

end Sys2Proof.Machine
end

