-- ==== Sys2Proof/Machine/Flags.lean ====
section
/-! DEFINITION. The status flag engine (spec 40_status_flag_engine.md R85 to R92). -/

namespace Sys2Proof.Machine

/-- The five flags the engine returns (R85). -/
structure Flags where
  z : Bool
  n : Bool
  c : Bool
  dc : Bool
  ov : Bool
deriving DecidableEq, Repr

/-- The low nibble of a Byte as a number. -/
def lowNibble (a : Byte) : Nat := (a &&& 0x0F#8).toNat

/-- FlagsAdd(a, b, cin) (R88): the wrapped result and the flags of a + b + cin. -/
def flagsAdd (a b : Byte) (cin : Bool) : Byte × Flags :=
  let raw : Nat := a.toNat + b.toNat + cin.toNat
  let result : Byte := BitVec.ofNat 8 raw
  (result,
    { z := decide (result = 0#8)
      n := result.msb
      c := decide (raw ≥ 256)
      dc := decide (lowNibble a + lowNibble b + cin.toNat ≥ 16)
      ov := a.msb == b.msb && result.msb != a.msb })

/-- FlagsSub(a, b) (R89): the wrapped result and the flags of a - b; C and DC are not-borrow. -/
def flagsSub (a b : Byte) : Byte × Flags :=
  let raw : Int := (a.toNat : Int) - b.toNat
  let result : Byte := BitVec.ofInt 8 raw
  (result,
    { z := decide (result = 0#8)
      n := result.msb
      c := decide (a.toNat ≥ b.toNat)
      dc := decide (lowNibble a ≥ lowNibble b)
      ov := a.msb != b.msb && result.msb != a.msb })

/-- The flags of a logic result (R86); C, DC and OV lie outside the logic mask and are not looked at. -/
def flagsLogic (r : Byte) : Flags := { z := decide (r = 0#8), n := r.msb, c := false, dc := false, ov := false }

/-- The one flag of CLRF (R128). -/
def flagsClear : Flags := { z := true, n := false, c := false, dc := false, ov := false }

/-- M_ARITH: C, DC, Z, OV, N (R90). -/
def maskArith : Byte := 0x1F#8

/-- M_LOGIC: Z, N (R90). -/
def maskLogic : Byte := 0x14#8

/-- M_Z: Z (R90). -/
def maskZ : Byte := 0x04#8

/-- F of R91: the flags at their STATUS positions (R21). -/
def Flags.pack (fl : Flags) : Byte :=
  (if fl.c then 0x01#8 else 0#8) ||| (if fl.dc then 0x02#8 else 0#8) ||| (if fl.z then 0x04#8 else 0#8) |||
    (if fl.ov then 0x08#8 else 0#8) ||| (if fl.n then 0x10#8 else 0#8)

/-- StatusUpdate(mask, flags) (R91): the masked bits take the flags, the others keep their value. -/
def statusUpdate (mask : Byte) (fl : Flags) (s : State) : State :=
  s.memWrite addrStatus ((s.status &&& ~~~mask) ||| (fl.pack &&& mask))

/-- STATUS.C as a carry-in (R21, R120). -/
def carryIn (s : State) : Bool := s.status.getLsbD 0

end Sys2Proof.Machine
end

