-- ==== Sys2Proof/Machine/Operands.lean ====
section
/-! DEFINITION. Operand forms: effective addresses, destinations and MOVFF addresses. -/

namespace Sys2Proof.Machine

/-- EA(f, a) (R45): direct gives f in bank 0, banked gives BSR * 256 + f. -/
def effAddr (f : Byte) (a : Access) (s : State) : DataAddr :=
  match a with
  | .direct => f.setWidth 16
  | .banked => s.bsr ++ f

/-- The file operand x (R118). -/
def readFile (f : Byte) (a : Access) (s : State) : Byte := s.memRead (effAddr f a s)

/-- Where a result goes (R64): the file register for d = 1, the accumulator for d = 0. The address is formed from the BSR
before the instruction (R46). -/
def destAddr (f : Byte) (d : Dest) (a : Access) (s : State) : DataAddr :=
  match d with
  | .file => effAddr f a s
  | .w => addrWreg

/-- `if d = 1: MemWrite(ea, 1, r) else: W <- r` (R118). -/
def writeDest (f : Byte) (d : Dest) (a : Access) (r : Byte) (s : State) : State := s.memWrite (destAddr f d a s) r

/-- `W <- r` (R8). -/
def writeW (r : Byte) (s : State) : State := s.memWrite addrWreg r

/-- The data address of a MOVFF operand, used unchanged with no bank resolution (R47). -/
def movffAddr (addr : MovffAddr) : DataAddr := addr.setWidth 16

end Sys2Proof.Machine
end

