-- ==== Sys2Proof/Machine/Arithmetic.lean ====
section
/-! DEFINITION. The arithmetic instructions (spec 43_arithmetic.md R118 to R122). The operand reads all stand before the
result write, and the result write before the flag update (R8, R92). -/

namespace Sys2Proof.Machine

/-- A result and its flags stored per destination, then the PC advanced: the common tail of R118 and R120 to R122. -/
def finishArith (f : Byte) (d : Dest) (a : Access) (res : Byte × Flags) (s : State) : Answer :=
  finish (statusUpdate maskArith res.2 (writeDest f d a res.1 s)) 2 false

/-- ADDWF f, d, a (R118). -/
def execAddwf (f : Byte) (d : Dest) (a : Access) (s : State) : Answer :=
  finishArith f d a (flagsAdd (readFile f a s) s.w false) s

/-- ADDLW k (R119). -/
def execAddlw (k : Byte) (s : State) : Answer :=
  let res := flagsAdd s.w k false
  finish (statusUpdate maskArith res.2 (writeW res.1 s)) 2 false

/-- ADDWFC f, d, a (R120): the carry-in is STATUS.C before the instruction. -/
def execAddwfc (f : Byte) (d : Dest) (a : Access) (s : State) : Answer :=
  finishArith f d a (flagsAdd (readFile f a s) s.w (carryIn s)) s

/-- INCF f, d, a (R121). -/
def execIncf (f : Byte) (d : Dest) (a : Access) (s : State) : Answer :=
  finishArith f d a (flagsAdd (readFile f a s) 1#8 false) s

/-- DECF f, d, a (R122): subtraction style, C is not-borrow. -/
def execDecf (f : Byte) (d : Dest) (a : Access) (s : State) : Answer :=
  finishArith f d a (flagsSub (readFile f a s) 1#8) s

end Sys2Proof.Machine
end

