-- ==== Sys2Proof/Machine/Logic.lean ====
section
/-! DEFINITION. The logic and clear instructions (spec 44_logic.md R123 to R128). -/

namespace Sys2Proof.Machine

/-- A logic result stored per destination with its Z and N, then the PC advanced: the tail of R123, R125 and R127. -/
def finishLogic (f : Byte) (d : Dest) (a : Access) (r : Byte) (s : State) : Answer :=
  finish (statusUpdate maskLogic (flagsLogic r) (writeDest f d a r s)) 2 false

/-- A logic result stored in W with its Z and N, then the PC advanced: the tail of R124 and R126. -/
def finishLogicW (r : Byte) (s : State) : Answer :=
  finish (statusUpdate maskLogic (flagsLogic r) (writeW r s)) 2 false

/-- ANDWF f, d, a (R123). -/
def execAndwf (f : Byte) (d : Dest) (a : Access) (s : State) : Answer := finishLogic f d a (readFile f a s &&& s.w) s

/-- ANDLW k (R124). -/
def execAndlw (k : Byte) (s : State) : Answer := finishLogicW (s.w &&& k) s

/-- IORWF f, d, a (R125). -/
def execIorwf (f : Byte) (d : Dest) (a : Access) (s : State) : Answer := finishLogic f d a (readFile f a s ||| s.w) s

/-- IORLW k (R126). -/
def execIorlw (k : Byte) (s : State) : Answer := finishLogicW (s.w ||| k) s

/-- COMF f, d, a (R127). -/
def execComf (f : Byte) (d : Dest) (a : Access) (s : State) : Answer := finishLogic f d a (~~~(readFile f a s)) s

/-- CLRF f, a (R128): stores 0, then sets Z and no other flag. -/
def execClrf (f : Byte) (a : Access) (s : State) : Answer :=
  finish (statusUpdate maskZ flagsClear (writeDest f .file a 0#8 s)) 2 false

end Sys2Proof.Machine
end

