-- ==== Sys2Proof/Machine/Move.lean ====
section
/-! DEFINITION. The move, multiply and no-operation instructions (spec 45_move_multiply.md R129 to R133). None writes a
flag (90_conflicts.md C1). -/

namespace Sys2Proof.Machine

/-- MOVF f, d, a (R129). -/
def execMovf (f : Byte) (d : Dest) (a : Access) (s : State) : Answer :=
  finish (writeDest f d a (readFile f a s) s) 2 false

/-- MOVFF fs, fd (R130): the operands are checked, the source first (R149), before anything is read or written; a reserved
one raises F_INVALID_OPERAND, and the PC stays (R144, log entry 2). -/
def execMovff (fs fd : MovffAddr) (s : State) : Answer :=
  if isMovffReserved fs then .next (s.raise (.invalidOperand .source fs))
  else if isMovffReserved fd then .next (s.raise (.invalidOperand .destination fd))
  else finish (s.memWrite (movffAddr fd) (s.memRead (movffAddr fs))) 4 false

/-- MOVWF f, a (R131). -/
def execMovwf (f : Byte) (a : Access) (s : State) : Answer := finish (writeDest f .file a s.w s) 2 false

/-- MULWF f, a (R132): the unsigned 16-bit product, low byte to PRODL and then high byte to PRODH. -/
def execMulwf (f : Byte) (a : Access) (s : State) : Answer :=
  let p : BitVec 16 := s.w.setWidth 16 * (readFile f a s).setWidth 16
  finish ((s.memWrite addrProdl (p.extractLsb' 0 8)).memWrite addrProdh (p.extractLsb' 8 8)) 2 false

/-- NOP, the word 0x0000 (R133). -/
def execNop (s : State) : Answer := finish s 2 false

/-- NOP, a word 1111 xxxx xxxx xxxx (R133): its 12 free bits have no effect. -/
def execNopF (_x : BitVec 12) (s : State) : Answer := finish s 2 false

end Sys2Proof.Machine
end

