-- ==== Sys2Proof/Machine/Skip.lean ====
section
/-! DEFINITION. The increment, decrement and compare skips (spec 46_skip.md R135 to R141). None writes a flag. A taken skip
is one more instruction word, whatever the next instruction is (41_stack_pc_trace.md R107). -/

namespace Sys2Proof.Machine

/-- INCFSZ f, d, a (R135). -/
def execIncfsz (f : Byte) (d : Dest) (a : Access) (s : State) : Answer :=
  let r := readFile f a s + 1#8
  finish (writeDest f d a r s) 2 (decide (r = 0#8))

/-- DECFSZ f, d, a (R136). -/
def execDecfsz (f : Byte) (d : Dest) (a : Access) (s : State) : Answer :=
  let r := readFile f a s - 1#8
  finish (writeDest f d a r s) 2 (decide (r = 0#8))

/-- INFSNZ f, d, a (R137). -/
def execInfsnz (f : Byte) (d : Dest) (a : Access) (s : State) : Answer :=
  let r := readFile f a s + 1#8
  finish (writeDest f d a r s) 2 (decide (r ≠ 0#8))

/-- DCFSNZ f, d, a (R138). -/
def execDcfsnz (f : Byte) (d : Dest) (a : Access) (s : State) : Answer :=
  let r := readFile f a s - 1#8
  finish (writeDest f d a r s) 2 (decide (r ≠ 0#8))

/-- CPFSEQ f, a (R139). -/
def execCpfseq (f : Byte) (a : Access) (s : State) : Answer := finish s 2 (decide (s.w = readFile f a s))

/-- CPFSGT f, a (R140): skip when W > f, unsigned, the source's orientation (90_conflicts.md C3). -/
def execCpfsgt (f : Byte) (a : Access) (s : State) : Answer :=
  finish s 2 (decide (s.w.toNat > (readFile f a s).toNat))

/-- CPFSLT f, a (R141): skip when W < f, unsigned, the source's orientation (90_conflicts.md C3). -/
def execCpfslt (f : Byte) (a : Access) (s : State) : Answer :=
  finish s 2 (decide (s.w.toNat < (readFile f a s).toNat))

end Sys2Proof.Machine
end

