-- ==== Sys2Proof/Machine/Dispatch.lean ====
section
/-! DEFINITION. Execute(ins) of the step (spec 41_stack_pc_trace.md R114): one arm per constructor of Instr. -/

namespace Sys2Proof.Machine

def exec (i : Instr) (s : State) : Host.Outcome State Fault Refusal :=
  match i with
  | .addwf f d a => Sys2Proof.Machine.execAddwf f d a s
  | .addlw k => Sys2Proof.Machine.execAddlw k s
  | .addwfc f d a => Sys2Proof.Machine.execAddwfc f d a s
  | .incf f d a => Sys2Proof.Machine.execIncf f d a s
  | .decf f d a => Sys2Proof.Machine.execDecf f d a s
  | .andwf f d a => Sys2Proof.Machine.execAndwf f d a s
  | .andlw k => Sys2Proof.Machine.execAndlw k s
  | .iorwf f d a => Sys2Proof.Machine.execIorwf f d a s
  | .iorlw k => Sys2Proof.Machine.execIorlw k s
  | .comf f d a => Sys2Proof.Machine.execComf f d a s
  | .clrf f a => Sys2Proof.Machine.execClrf f a s
  | .movf f d a => Sys2Proof.Machine.execMovf f d a s
  | .movff fs fd => Sys2Proof.Machine.execMovff fs fd s
  | .movwf f a => Sys2Proof.Machine.execMovwf f a s
  | .mulwf f a => Sys2Proof.Machine.execMulwf f a s
  | .nop => Sys2Proof.Machine.execNop s
  | .nopF x => Sys2Proof.Machine.execNopF x s
  | .incfsz f d a => Sys2Proof.Machine.execIncfsz f d a s
  | .decfsz f d a => Sys2Proof.Machine.execDecfsz f d a s
  | .infsnz f d a => Sys2Proof.Machine.execInfsnz f d a s
  | .dcfsnz f d a => Sys2Proof.Machine.execDcfsnz f d a s
  | .cpfseq f a => Sys2Proof.Machine.execCpfseq f a s
  | .cpfsgt f a => Sys2Proof.Machine.execCpfsgt f a s
  | .cpfslt f a => Sys2Proof.Machine.execCpfslt f a s

end Sys2Proof.Machine
end

