-- ==== Sys2Proof/Machine/Step.lean ====
section
/-! DEFINITION. The execution step (spec 41_stack_pc_trace.md R114) and the placing of one instruction where the next step
fetches it. -/

namespace Sys2Proof.Machine

/-- Step() of R114: return the recorded fault while halted (R145), else fetch, decode and execute. A step that faults answers
the next state, which is the state before it with the latch set (R146, log entry 2). -/
def step (s : State) : Host.Outcome State Fault Refusal :=
  match s.halted with
  | some record => .fault (.halted record)
  | none =>
    match decode s.fetch1 s.fetch2 with
    | .ok i => exec i s
    | .error e => raiseDecode e s

/-- The state with one instruction stored where `step` fetches next: its words, numbered as the opcode table numbers them, at
the PC and after it. It stands for the loader's PMWrite (R162, log entry 9). The first word is written last, so that it is the
one fetched where program memory has a single cell. -/
def State.withFetchWord (s : State) (nbits w : Nat) : State :=
  (s.pmWrite (s.pc + 2) (tableWords nbits w).2).pmWrite s.pc (tableWords nbits w).1

end Sys2Proof.Machine
end

