-- ==== Sys2Proof/Machine/HostOps.lean ====
section
/-! DEFINITION. The eleven operations the block exposes to its environment (spec 00_scope.md R10), each total and atomic
(20_memory.md R56), with the refusals of 60_exceptions.md R150. Arguments are unbounded integers (log entry 8). -/

namespace Sys2Proof.Machine

/-- The operations of R10. -/
inductive HostOp where
  | reset
  | pmWrite (addr value : Int)
  | pmReadHost (addr : Int)
  | dmRead (addr : Int)
  | dmWrite (addr value : Int)
  | pcRead
  | pcAdvance (delta : Int)
  | push (addr : Int)
  | pop
  | traceRead
  | step
deriving DecidableEq, Repr

/-- Which argument broke the contract (R143: "address or word", "address or value"). -/
inductive HostArg where
  | address
  | value
deriving DecidableEq, Repr

/-- The host refusals of R143 and R150, with the offending argument. -/
inductive HostRefusal where
  /-- F_PUSH_RANGE (R99). -/
  | pushRange (addr : Int)
  /-- F_PM_RANGE (R51, R52). -/
  | pmRange (arg : HostArg) (given : Int)
  /-- F_DM_RANGE (R48). -/
  | dmRange (arg : HostArg) (given : Int)
deriving DecidableEq, Repr

/-- What an operation reports to the host. -/
inductive HostAnswer where
  /-- The operation ran and has no result. -/
  | done
  /-- The word of PMReadHost. -/
  | word (v : Word)
  /-- The byte of DMRead. -/
  | byte (v : Byte)
  /-- The PC of PCRead. -/
  | pcIs (pc : Nat)
  /-- The address of Pop, or none on an empty stack. -/
  | popped (addr : Option Nat)
  /-- The event of TraceRead, or none when the trace is exhausted. -/
  | event (e : Option TraceEvent)
  /-- Step: none is `ok`, else the fault record (R114). -/
  | stepped (fault : Option FaultRecord)
  /-- The operation broke its contract and did nothing (R150). -/
  | refused (r : HostRefusal)
  /-- Step met an instruction the model does not model; no instruction does. -/
  | stepRefused (r : Refusal)
deriving DecidableEq, Repr

/-- Whether an integer argument lies in [0, size). -/
def inRange (x : Int) (size : Nat) : Bool := decide (0 ≤ x) && decide (x < size)

/-- PMWrite(addr, w) (R51). -/
def hostPmWrite (addr value : Int) (s : State) : State × HostAnswer :=
  if !inRange addr s.cfg.pmemBytes then (s, .refused (.pmRange .address addr))
  else if !inRange value 65536 then (s, .refused (.pmRange .value value))
  else (s.pmWrite addr.toNat (BitVec.ofNat 16 value.toNat), .done)

/-- PMReadHost(addr) (R52). -/
def hostPmRead (addr : Int) (s : State) : State × HostAnswer :=
  if !inRange addr s.cfg.pmemBytes then (s, .refused (.pmRange .address addr))
  else (s, .word (s.pmRead addr.toNat))

/-- DMRead(addr) (R48). -/
def hostDmRead (addr : Int) (s : State) : State × HostAnswer :=
  if !inRange addr 65536 then (s, .refused (.dmRange .address addr))
  else (s, .byte (s.memRead (BitVec.ofNat 16 addr.toNat)))

/-- DMWrite(addr, v) (R48). -/
def hostDmWrite (addr value : Int) (s : State) : State × HostAnswer :=
  if !inRange addr 65536 then (s, .refused (.dmRange .address addr))
  else if !inRange value 256 then (s, .refused (.dmRange .value value))
  else (s.memWrite (BitVec.ofNat 16 addr.toNat) (BitVec.ofNat 8 value.toNat), .done)

/-- Push(addr) with its precondition (R99, R100). -/
def hostPush (addr : Int) (s : State) : State × HostAnswer :=
  if !inRange addr s.cfg.pmemBytes then (s, .refused (.pushRange addr)) else (s.push addr.toNat, .done)

/-- Step() as the host sees it (R114): the state and `ok` or the fault record. -/
def hostStep (s : State) : State × HostAnswer :=
  match step s with
  | .next s' => (s', .stepped s'.halted)
  | .fault (.halted record) => (s, .stepped (some record))
  | .refused r => (s, .stepRefused r)

/-- One operation of R10 (R56: it completes before the next begins). -/
def hostExec (op : HostOp) (s : State) : State × HostAnswer :=
  match op with
  | .reset => (s.doReset, .done)
  | .pmWrite addr value => hostPmWrite addr value s
  | .pmReadHost addr => hostPmRead addr s
  | .dmRead addr => hostDmRead addr s
  | .dmWrite addr value => hostDmWrite addr value s
  | .pcRead => (s, .pcIs s.pc)
  | .pcAdvance delta => (s.pcAdvance delta, .done)
  | .push addr => hostPush addr s
  | .pop => (s.pop.1, .popped s.pop.2)
  | .traceRead => (s.traceRead.1, .event s.traceRead.2)
  | .step => hostStep s

/-- A schedule of operations, in the total order of R56, with every answer. -/
def hostRun : List HostOp → State → State × List HostAnswer
  | [], s => (s, [])
  | op :: ops, s =>
    let (s', answer) := hostExec op s
    let (t, answers) := hostRun ops s'
    (t, answer :: answers)

end Sys2Proof.Machine
end

