-- ==== Sys2Proof/WellFormed.lean ====
section
/-! DEFINITION. Which instructions meet the operand contract of the spec. Every operand's width is in its type, so the one
check left is MOVFF's: neither address is reserved (spec 45_move_multiply.md R130). Log entry 11: an instruction that fails
the check still decodes, encodes and executes; its execution is the fault F_INVALID_OPERAND. -/

namespace Sys2Proof

/-- The operand contract of R130: MOVFF's source and destination are not reserved; every other instruction has none. -/
def Instr.wellFormed : Instr → Bool
  | .movff fs fd => !Machine.isMovffReserved fs && !Machine.isMovffReserved fd
  | .addwf _ _ _ | .addlw _ | .addwfc _ _ _ | .incf _ _ _ | .decf _ _ _ | .andwf _ _ _ | .andlw _ | .iorwf _ _ _
  | .iorlw _ | .comf _ _ _ | .clrf _ _ | .movf _ _ _ | .movwf _ _ | .mulwf _ _ | .nop | .nopF _ | .incfsz _ _ _
  | .decfsz _ _ _ | .infsnz _ _ _ | .dcfsnz _ _ _ | .cpfseq _ _ | .cpfsgt _ _ | .cpfslt _ _ => true

end Sys2Proof
end

