-- ==== Sys2Proof/Safety.lean ====
section
/-! DEFINITION. What counts as a legal state and a safe step, in the terms the claims use, and the predicates with which a
claim says what an instruction leaves unchanged. -/

namespace Sys2Proof.Machine

/-- An address a trace event carries lies in program memory (R30, R34). -/
def TraceEvent.inRange (size : Nat) : TraceEvent → Bool
  | .push addr => decide (addr < size)
  | .pop addr => decide (addr < size)
  | .stackOverflow addr => decide (addr < size)
  | .stackUnderflow => true

/-- An address a call-stack slot holds lies in program memory (R30). -/
def StackSlot.inRange (size : Nat) : StackSlot → Bool
  | .unwritten => true
  | .holds addr => decide (addr < size)

namespace State

/-- The invariant of the block: both memories are canonical and inside their spaces (R16, R29), the PC, every stacked address
and every traced address lie in [0, PMEM_BYTES) (R28, R30, R34), and so does the PC of a recorded fault (R35). -/
structure WF (s : State) : Prop where
  dm : Memory.wf 65536 s.dm = true
  pm : Memory.wf s.cfg.pmemWords s.pm = true
  pc : s.pc < s.cfg.pmemBytes
  stack : ∀ i : Fin stackDepth, s.stack[i.val].inRange s.cfg.pmemBytes = true
  trace : ∀ i : Fin traceCapacity, s.trace[i.val].inRange s.cfg.pmemBytes = true
  halted : ∀ r, s.halted = some r → r.pc < s.cfg.pmemBytes

/-- A step that completed an instruction: a next state whose latch is not set. A faulting step also answers a next state
(log entry 2), so a claim that a step succeeds is stated with this and not with the next state alone. -/
def StepsOk (s t : State) : Prop := step s = .next t ∧ t.halted = none

/-- `t` agrees with `s` on everything but data memory and the PC: the parameter, program memory, the call stack, the trace
and its cursors, the latch and the draw index. -/
structure SameOutsideDataAndPc (s t : State) : Prop where
  cfg : t.cfg = s.cfg
  pm : t.pm = s.pm
  stack : t.stack = s.stack
  trace : t.trace = s.trace
  tw : t.tw = s.tw
  tr : t.tr = s.tr
  halted : t.halted = s.halted
  resetCount : t.resetCount = s.resetCount

/-- The unread events, oldest first: T[tr], T[tr+1 mod 128], ..., T[tw-1 mod 128] (R33). -/
def unread (s : State) : List TraceEvent :=
  (List.range (s.tw - s.tr : Fin traceCapacity).val).map fun i => s.trace[(s.tr + Fin.ofNat traceCapacity i).val]

/-- The effect of an instruction that stores one Byte and writes no flag through the engine: the destination cell holds `r`,
every other cell of data memory reads as before, STATUS among them, the PC is `n` bytes on, and nothing else changed. -/
structure StoresByte (s t : State) (dst : DataAddr) (r : Byte) (n : Nat) : Prop where
  result : t.memRead dst = r
  others : ∀ ea, ea ≠ dst → t.memRead ea = s.memRead ea
  pc : t.pc = (s.pc + n) % s.cfg.pmemBytes
  rest : s.SameOutsideDataAndPc t

/-- The effect of an instruction that stores one Byte and then writes the flags in `mask` (R91, R92): the destination cell
holds `r` unless it is STATUS; STATUS has the masked bits from `flags` and the others from what it held, which is `r` where
STATUS is the destination; every other cell reads as before, the PC is 2 bytes on, and nothing else changed. -/
structure StoresByteAndFlags (s t : State) (dst : DataAddr) (r mask flags : Byte) : Prop where
  result : dst ≠ addrStatus → t.memRead dst = r
  status : t.status = ((if dst = addrStatus then r else s.status) &&& ~~~mask) ||| (flags &&& mask)
  others : ∀ ea, ea ≠ dst → ea ≠ addrStatus → t.memRead ea = s.memRead ea
  pc : t.pc = (s.pc + 2) % s.cfg.pmemBytes
  rest : s.SameOutsideDataAndPc t

end State

/-- The data cells an instruction stores its result to, at a state, if it completes: the destination of d (R64), W for a
literal form, the file register, MOVFF's destination or the product pair. The flags it writes into STATUS (R91) are no result,
and an instruction that has none stores to no cell. -/
def resultCells (i : Instr) (s : State) : List DataAddr :=
  match i with
  | .addwf f d a | .addwfc f d a | .incf f d a | .decf f d a | .andwf f d a | .iorwf f d a | .comf f d a | .movf f d a
  | .incfsz f d a | .decfsz f d a | .infsnz f d a | .dcfsnz f d a => [destAddr f d a s]
  | .addlw _ | .andlw _ | .iorlw _ => [addrWreg]
  | .clrf f a | .movwf f a => [effAddr f a s]
  | .movff _ fd => [movffAddr fd]
  | .mulwf _ _ => [addrProdl, addrProdh]
  | .nop | .nopF _ | .cpfseq _ _ | .cpfsgt _ _ | .cpfslt _ _ => []

end Sys2Proof.Machine
end

