-- ==== Sys2Proof/Certificates/Slice0/Obligations.lean ====
section
/-! DEFINITION. The statements for the provers. Registers are cells of data memory (spec 10_state.md R20), so a frame over
data addresses is a frame over W, BSR, STATUS, STKPTR, PRODL and PRODH too. A statement holds for every PMEM_BYTES, since the
size is a field of the state (log entry 1). -/

open Sys2Proof Sys2Proof.Machine

/-! ### Encoding -/

/-- Words written out in 95_test_vectors.md 2.10 decode to what that table says. That 0xF123 keeps its 12 free bits as the
operand of `nopF` is the model's choice (log entry 6, DESIGN CHOICE); the table says NOP. -/
def Obligations.DecodeReadsTheSpecWords : Prop :=
  decode 0x27FF#16 0#16 = .ok (.addwf 0xFF#8 .file .banked) ∧
  decode 0x23D8#16 0#16 = .ok (.addwfc 0xD8#8 .file .banked) ∧
  decode 0x0F80#16 0#16 = .ok (.addlw 0x80#8) ∧
  decode 0x1C00#16 0#16 = .ok (.comf 0x00#8 .w .direct) ∧
  decode 0x6B00#16 0#16 = .ok (.clrf 0x00#8 .banked) ∧
  decode 0x03FF#16 0#16 = .ok (.mulwf 0xFF#8 .banked) ∧
  decode 0x4E30#16 0#16 = .ok (.dcfsnz 0x30#8 .file .direct) ∧
  decode 0xC010#16 0xFFE0#16 = .ok (.movff 0x010#12 0xFE0#12) ∧
  decode 0xC010#16 0xE000#16 = .error (.movffWord2 0xE000#16) ∧
  decode 0xF123#16 0#16 = .ok (.nopF 0x123#12) ∧
  decode 0x0E05#16 0#16 = .error (.unsupported 0x0E05#16)

/-- Decoding the words of any instruction, whatever word follows a one-word instruction, gives it back with every operand
(R60 to R65). That the operand of `nopF`, the 12 free bits of 1111 xxxx xxxx xxxx, comes back too rests on log entry 6
(DESIGN CHOICE). -/
def Obligations.DecodeOfEncodeIsTheInstruction : Prop :=
  ∀ (i : Instr) (next : Word), decode (encode i).1 ((encode i).2.getD next) = .ok i

/-- Words that decode to an instruction are the words of its encoding: the decoder drops and misplaces no bit. For the words
1111 xxxx xxxx xxxx this is the model's choice and not the spec's (log entry 6, DESIGN CHOICE): `nopF` keeps the 12 free bits,
where R62, R65 and R69 have all these words decode to one NOP without operands. For every other word no bit is free. -/
def Obligations.EncodeOfDecodeIsTheWords : Prop :=
  ∀ (w1 w2 : Word) (i : Instr), decode w1 w2 = .ok i →
    (encode i).1 = w1 ∧ ∀ w, (encode i).2 = some w → w = w2

/-- The decoder's case blocks (R65) and the opcode map's masks (R63) agree: a decoded word selects a row of its mnemonic; a
word that selects a row decodes to that row's mnemonic, for MOVFF when the second word begins with 1111 and to
F_MOVFF_WORD2 otherwise; no word selects two rows. -/
def Obligations.DecodeAgreesWithTheOpcodeMap : Prop :=
  (∀ (w1 w2 : Word) (i : Instr), decode w1 w2 = .ok i → ∃ r ∈ opcodeMap, r.selects w1 ∧ r.mnemonic = i.mnemonic) ∧
  (∀ r ∈ opcodeMap, ∀ w1 w2 : Word, r.selects w1 →
    if r.mnemonic = "MOVFF" ∧ w2.extractLsb' 12 4 ≠ 0xF#4 then decode w1 w2 = .error (.movffWord2 w2)
    else ∃ i, decode w1 w2 = .ok i ∧ i.mnemonic = r.mnemonic) ∧
  opcodeMap.Pairwise (fun r r' => ∀ w : Word, ¬(r.selects w ∧ r'.selects w))

/-- F_UNSUPPORTED is raised exactly for the first words that select no row of the map; the step then sets the latch to the
word and the PC and changes nothing else, and no operation but Step sets the latch (R142, R68). -/
def Obligations.UnsupportedWordLatchesAndWritesNothing : Prop :=
  (∀ w1 w2 : Word, (∃ e, decode w1 w2 = .error (.unsupported e)) ↔ ∀ r ∈ opcodeMap, ¬ r.selects w1) ∧
  (∀ s : State, s.halted = none → (∀ r ∈ opcodeMap, ¬ r.selects s.fetch1) →
    step s = .next { s with halted := some ⟨.unsupported s.fetch1, s.pc⟩ }) ∧
  (∀ (op : HostOp) (s : State) (r : FaultRecord), op ≠ .step → (hostExec op s).1.halted = some r → s.halted = some r)

/-- The second word of a MOVFF must begin with 1111, else the step sets the latch to F_MOVFF_WORD2 and changes nothing else;
a word beginning with 1111 that is fetched on its own runs as NOP (R67). -/
def Obligations.MovffSecondWordIsChecked : Prop :=
  (∀ s : State, s.halted = none → s.fetch1.extractLsb' 12 4 = 0xC#4 → s.fetch2.extractLsb' 12 4 ≠ 0xF#4 →
    step s = .next { s with halted := some ⟨.movffWord2 s.fetch2, s.pc⟩ }) ∧
  (∀ s : State, s.halted = none → s.fetch1.extractLsb' 12 4 = 0xF#4 →
    step s = .next { s with pc := (s.pc + 2) % s.cfg.pmemBytes })

/-! ### Flag engine -/

/-- The addition-style result and flags, term by term (R88). -/
def Obligations.AddFlagsFollowTheFormula : Prop :=
  ∀ (a b : Byte) (cin : Bool),
    let raw := a.toNat + b.toNat + cin.toNat
    let r := (flagsAdd a b cin).1
    let fl := (flagsAdd a b cin).2
    r.toNat = raw % 256 ∧ (fl.z = true ↔ r.toNat = 0) ∧ fl.n = r.getLsbD 7 ∧ (fl.c = true ↔ 256 ≤ raw) ∧
    (fl.dc = true ↔ 16 ≤ a.toNat % 16 + b.toNat % 16 + cin.toNat) ∧
    (fl.ov = true ↔ a.getLsbD 7 = b.getLsbD 7 ∧ r.getLsbD 7 ≠ a.getLsbD 7)

/-- The subtraction-style result and flags, term by term (R89). -/
def Obligations.SubFlagsFollowTheFormula : Prop :=
  ∀ a b : Byte,
    let r := (flagsSub a b).1
    let fl := (flagsSub a b).2
    (r.toNat : Int) = ((a.toNat : Int) - b.toNat) % 256 ∧ (fl.z = true ↔ r.toNat = 0) ∧ fl.n = r.getLsbD 7 ∧
    (fl.c = true ↔ b.toNat ≤ a.toNat) ∧ (fl.dc = true ↔ b.toNat % 16 ≤ a.toNat % 16) ∧
    (fl.ov = true ↔ a.getLsbD 7 ≠ b.getLsbD 7 ∧ r.getLsbD 7 ≠ a.getLsbD 7)

/-- Subtraction is addition of the complement with a carry-in, result and all five flags (R94). -/
def Obligations.SubtractionIsAdditionOfTheComplement : Prop :=
  ∀ a b : Byte, flagsSub a b = flagsAdd a (~~~b) true

/-- The increment and decrement rows (R95). -/
def Obligations.IncrementAndDecrementFlagCases : Prop :=
  ∀ f : Byte,
    (let r := (flagsAdd f 1#8 false).1
     let fl := (flagsAdd f 1#8 false).2
     (fl.z = true ↔ f = 0xFF#8) ∧ fl.n = r.getLsbD 7 ∧ (fl.c = true ↔ f = 0xFF#8) ∧
       (fl.dc = true ↔ f &&& 0x0F#8 = 0x0F#8) ∧ (fl.ov = true ↔ f = 0x7F#8)) ∧
    (let r := (flagsSub f 1#8).1
     let fl := (flagsSub f 1#8).2
     (fl.z = true ↔ f = 0x01#8) ∧ fl.n = r.getLsbD 7 ∧ (fl.c = true ↔ f ≠ 0x00#8) ∧
       (fl.dc = true ↔ f &&& 0x0F#8 ≠ 0x00#8) ∧ (fl.ov = true ↔ f = 0x80#8))

/-- OV says exactly that the signed sum or difference does not fit in a signed Byte (R13, R21: two's-complement overflow). -/
def Obligations.OverflowMeansSignedResultOutOfRange : Prop :=
  (∀ (a b : Byte) (cin : Bool), (flagsAdd a b cin).2.ov = true ↔
    (a.toInt + b.toInt + cin.toNat < -128 ∨ 127 < a.toInt + b.toInt + cin.toNat)) ∧
  (∀ a b : Byte, (flagsSub a b).2.ov = true ↔ (a.toInt - b.toInt < -128 ∨ 127 < a.toInt - b.toInt))

/-- StatusUpdate packs the flags at their STATUS positions, gives STATUS the packed bits inside the mask, keeps its other
bits, bits 7:5 among them under every mask of the engine, and touches nothing else; the empty mask changes no read (R91). -/
def Obligations.StatusUpdateWritesOnlyMaskedBits : Prop :=
  ∀ (mask : Byte) (fl : Flags) (s : State),
    let t := statusUpdate mask fl s
    fl.pack.toNat = fl.c.toNat * 1 + fl.dc.toNat * 2 + fl.z.toNat * 4 + fl.ov.toNat * 8 + fl.n.toNat * 16 ∧
    (∀ i, i < 8 → t.status.getLsbD i = if mask.getLsbD i then fl.pack.getLsbD i else s.status.getLsbD i) ∧
    (∀ ea, ea ≠ addrStatus → t.memRead ea = s.memRead ea) ∧ t.pc = s.pc ∧ s.SameOutsideDataAndPc t ∧
    (mask = 0#8 → ∀ ea, t.memRead ea = s.memRead ea)

/-! ### Memory -/

/-- A data write sets all 8 bits of one cell, every other cell reads as before, and the PC, program memory, stack, trace and
latch are unchanged (R43). -/
def Obligations.DataWriteReadsBackAndTouchesNothingElse : Prop :=
  ∀ (s : State) (ea : DataAddr) (v : Byte),
    (s.memWrite ea v).memRead ea = v ∧ (∀ ea', ea' ≠ ea → (s.memWrite ea v).memRead ea' = s.memRead ea') ∧
    (s.memWrite ea v).pc = s.pc ∧ s.SameOutsideDataAndPc (s.memWrite ea v)

/-- EA(f, a): f in bank 0 when direct, BSR * 256 + f when banked (R45). The destination `destAddr` of a result is W for d = 0
and the cell at EA for d = 1, as the operand table of R64 has it (which values of the bits d and a these are is the spec's
decision D6). A MOVFF address is used unchanged, with no bank (R47). -/
def Obligations.EffectiveAddressFormula : Prop :=
  ∀ (f : Byte) (s : State),
    (effAddr f .direct s).toNat = f.toNat ∧ (effAddr f .banked s).toNat = s.bsr.toNat * 256 + f.toNat ∧
    (∀ a, (effAddr f a s).toNat ≤ 0xFFFF) ∧
    (∀ a, destAddr f .w a s = addrWreg) ∧ (∀ a, destAddr f .file a s = effAddr f a s) ∧
    ∀ addr : MovffAddr, (movffAddr addr).toNat = addr.toNat

/-- DMRead and DMWrite are MemRead and MemWrite on arguments in range, and are refused without effect on others (R48). The
order of the two range checks of DMWrite is the model's choice (log entry 8), so the refusal is claimed to name an argument
that is out of range, not which of two. -/
def Obligations.HostDataAccess : Prop :=
  ∀ (s : State) (addr v : Int),
    (0 ≤ addr ∧ addr < 65536 → hostExec (.dmRead addr) s = (s, .byte (s.memRead (BitVec.ofInt 16 addr)))) ∧
    (¬(0 ≤ addr ∧ addr < 65536) → hostExec (.dmRead addr) s = (s, .refused (.dmRange .address addr))) ∧
    (0 ≤ addr ∧ addr < 65536 ∧ 0 ≤ v ∧ v < 256 →
      hostExec (.dmWrite addr v) s = (s.memWrite (BitVec.ofInt 16 addr) (BitVec.ofInt 8 v), .done)) ∧
    (¬(0 ≤ addr ∧ addr < 65536 ∧ 0 ≤ v ∧ v < 256) →
      ∃ arg x, hostExec (.dmWrite addr v) s = (s, .refused (.dmRange arg x)) ∧
        ((arg = .address ∧ x = addr ∧ ¬(0 ≤ addr ∧ addr < 65536)) ∨ (arg = .value ∧ x = v ∧ ¬(0 ≤ v ∧ v < 256))))

/-- PMWrite writes the word that contains a byte address in range and nothing else, PMReadHost reads the word that contains
one, and both are refused without effect outside their ranges, naming an argument that is out of range (R51, R52). -/
def Obligations.HostProgramMemoryAccess : Prop :=
  ∀ (s : State) (addr : Int) (v : Int),
    (0 ≤ addr ∧ addr < s.cfg.pmemBytes → hostExec (.pmReadHost addr) s = (s, .word (Memory.read s.pm (addr.toNat / 2)))) ∧
    (¬(0 ≤ addr ∧ addr < s.cfg.pmemBytes) → hostExec (.pmReadHost addr) s = (s, .refused (.pmRange .address addr))) ∧
    (0 ≤ addr ∧ addr < s.cfg.pmemBytes ∧ 0 ≤ v ∧ v < 65536 →
      (hostExec (.pmWrite addr v) s).2 = .done ∧
      (hostExec (.pmWrite addr v) s).1 = { s with pm := (hostExec (.pmWrite addr v) s).1.pm } ∧
      ∀ n, Memory.read (hostExec (.pmWrite addr v) s).1.pm n =
        if n = addr.toNat / 2 then BitVec.ofInt 16 v else Memory.read s.pm n) ∧
    (¬(0 ≤ addr ∧ addr < s.cfg.pmemBytes ∧ 0 ≤ v ∧ v < 65536) →
      ∃ arg x, hostExec (.pmWrite addr v) s = (s, .refused (.pmRange arg x)) ∧
        ((arg = .address ∧ x = addr ∧ ¬(0 ≤ addr ∧ addr < s.cfg.pmemBytes)) ∨
          (arg = .value ∧ x = v ∧ ¬(0 ≤ v ∧ v < 65536))))

/-- The step after a PMWrite at the PC fetches the new word and runs what it decodes to (R58). -/
def Obligations.StoredWordIsFetchedByTheNextStep : Prop :=
  ∀ (s : State) (v : Word) (i : Instr), s.pc < s.cfg.pmemBytes → s.halted = none →
    let t := (hostExec (.pmWrite s.pc v.toNat) s).1
    t.fetch1 = v ∧ (decode v t.fetch2 = .ok i → step t = exec i t)

/-- Two canonical memories of one size that read alike at every address are the same list (R16, R29: what a memory is, is what
it reads as). -/
def Obligations.CanonicalMemoriesEqualByReads : Prop :=
  ∀ (w size : Nat) (m m' : Memory w), Memory.wf size m = true → Memory.wf size m' = true →
    (∀ a, Memory.read m a = Memory.read m' a) → m = m'

/-! ### The step as a whole -/

/-- A step whose words decode runs exactly that instruction on that state (R114): the words are those of the cells that
contain pc and (pc + 2) mod PMEM_BYTES, and nothing is added around `exec`, which advances the PC itself (log entry 7). -/
def Obligations.StepRunsTheDecodedInstruction : Prop :=
  ∀ (s : State) (i : Instr), s.pc < s.cfg.pmemBytes → s.halted = none →
    decode (Memory.read s.pm (s.pc / 2)) (Memory.read s.pm ((s.pc + 2) % s.cfg.pmemBytes / 2)) = .ok i →
    step s = exec i s

/-- An instruction that completes moves the PC past its own words, 4 bytes for MOVFF and 2 for any other, and by 2 bytes more
only where it is a skip instruction (R66, R107, R114). -/
def Obligations.CompletedInstructionAdvancesByItsWidth : Prop :=
  ∀ (i : Instr) (s t : State), exec i s = .next t → t.halted = none →
    t.pc = (s.pc + i.width) % s.cfg.pmemBytes ∨
    (i.mnemonic ∈ ["INCFSZ", "DECFSZ", "INFSNZ", "DCFSNZ", "CPFSEQ", "CPFSGT", "CPFSLT"] ∧
      t.pc = (s.pc + i.width + 2) % s.cfg.pmemBytes)

/-- While the latch is set every Step returns the same record and changes nothing, only Reset clears it, and every other
operation does to the state and answers what it would without the latch (R145). -/
def Obligations.HaltedBlockStaysHaltedUntilReset : Prop :=
  ∀ (s : State) (r : FaultRecord), s.halted = some r →
    step s = .fault (.halted r) ∧ hostExec .step s = (s, .stepped (some r)) ∧
    (∀ op, op ≠ .reset → (hostExec op s).1.halted = some r) ∧ (hostExec .reset s).1.halted = none ∧
    (∀ op, op ≠ .reset → op ≠ .step → hostExec op { s with halted := none } =
      ({ (hostExec op s).1 with halted := none }, (hostExec op s).2))

/-- Every step keeps the invariant of the block. -/
def Obligations.StepKeepsTheStateInvariant : Prop :=
  ∀ s t : State, s.WF → step s = .next t → t.WF

/-- The state after power-on meets the invariant, for the model's own PMEM_BYTES (log entry 1) and for every other. -/
def Obligations.ResetStateMeetsTheInvariant : Prop :=
  State.reset.WF ∧ ∀ cfg : Config, (State.powerOn cfg).WF

/-- Every schedule of host operations keeps the invariant, whatever the integers the host passes. -/
def Obligations.HostSchedulesKeepTheStateInvariant : Prop :=
  ∀ (ops : List HostOp) (s : State), s.WF → (hostRun ops s).1.WF

/-- Faults are precise: the state after a step that faults is the state before it with the latch set, the recorded PC is the
PC of the step, and Step reports the record (R146). -/
def Obligations.StepFaultsArePrecise : Prop :=
  ∀ (s t : State) (r : FaultRecord), s.halted = none → step s = .next t → t.halted = some r →
    t = { s with halted := some r } ∧ r.pc = s.pc ∧ hostExec .step s = (t, .stepped (some r))

/-- The order of the checks of a step: the latch, the second word of a MOVFF before its operands, an unrecognised first word,
MOVFF's source, then its destination (R149). -/
def Obligations.FaultPriority : Prop :=
  ∀ s : State,
    let w1 := s.fetch1
    let w2 := s.fetch2
    let report (k : StepFault) : State × HostAnswer := ({ s with halted := some ⟨k, s.pc⟩ }, .stepped (some ⟨k, s.pc⟩))
    (∀ r, s.halted = some r → hostExec .step s = (s, .stepped (some r))) ∧
    (s.halted = none →
      (w1.extractLsb' 12 4 = 0xC#4 →
        (w2.extractLsb' 12 4 ≠ 0xF#4 → hostExec .step s = report (.movffWord2 w2)) ∧
        (w2.extractLsb' 12 4 = 0xF#4 →
          (w1.extractLsb' 0 12 ∈ movffReserved →
            hostExec .step s = report (.invalidOperand .source (w1.extractLsb' 0 12))) ∧
          (w1.extractLsb' 0 12 ∉ movffReserved → w2.extractLsb' 0 12 ∈ movffReserved →
            hostExec .step s = report (.invalidOperand .destination (w2.extractLsb' 0 12))))) ∧
      (w1.extractLsb' 12 4 ≠ 0xC#4 → (∀ i, decode w1 w2 ≠ .ok i) → hostExec .step s = report (.unsupported w1)))

/-- No step changes program memory, the call stack, the trace, its cursors or the parameter: instructions reach data memory,
the PC and, by a fault, the latch (R5, R29, R30, R111). -/
def Obligations.StepsLeaveProgramStackAndTraceAlone : Prop :=
  ∀ s t : State, step s = .next t →
    t.cfg = s.cfg ∧ t.pm = s.pm ∧ t.stack = s.stack ∧ t.trace = s.trace ∧ t.tw = s.tw ∧ t.tr = s.tr ∧
    t.resetCount = s.resetCount

/-- A program cannot observe the stack slots, the trace or the draws: a step of a state that differs only in them does the
same to everything else (R38). -/
def Obligations.StepIgnoresStackAndTrace : Prop :=
  ∀ (s : State) (stack : Vector StackSlot stackDepth) (trace : Vector TraceEvent traceCapacity)
    (tw tr : Fin traceCapacity) (resetCount : Nat),
    let other (u : State) : State :=
      { u with stack := stack, trace := trace, tw := tw, tr := tr, resetCount := resetCount }
    match step s with
    | .next t => step (other s) = .next (other t)
    | .fault r => step (other s) = .fault r
    | .refused r => step (other s) = .refused r

/-- Only Push and Pop record events, one per call: every other operation but Reset leaves the ring and the write cursor, and
all but TraceRead the read cursor; a refused Push records nothing; an accepted Push and every Pop record exactly one (R111). -/
def Obligations.OnlyPushAndPopRecordEvents : Prop :=
  ∀ s : State,
    let records (t : State) (e : TraceEvent) : Prop :=
      t.trace = s.trace.set s.tw.val e ∧ t.tw = s.tw + 1 ∧ t.tr = if s.tw + 1 = s.tr then s.tr + 1 else s.tr
    (∀ op, op ≠ .reset → op ≠ .pop → (∀ addr, op ≠ .push addr) →
      (hostExec op s).1.trace = s.trace ∧ (hostExec op s).1.tw = s.tw ∧
      (op ≠ .traceRead → (hostExec op s).1.tr = s.tr)) ∧
    (∀ addr : Int, ¬(0 ≤ addr ∧ addr < s.cfg.pmemBytes) → (hostExec (.push addr) s).1 = s) ∧
    (∀ addr : Nat, addr < s.cfg.pmemBytes →
      records (hostExec (.push addr) s).1 (if s.sp = 31#5 then .stackOverflow addr else .push addr)) ∧
    (∀ v, (hostExec .pop s).2 = .popped v →
      records (hostExec .pop s).1 (match v with | none => .stackUnderflow | some addr => .pop addr))

/-- No instruction makes an even PC odd (92_eei_decisions.md D29). -/
def Obligations.StepsKeepThePcEven : Prop :=
  ∀ s t : State, s.pc % 2 = 0 → step s = .next t → t.pc % 2 = 0

/-- A taken skip over a MOVFF lands on its second word, which runs as NOP: one more step and the PC is past the MOVFF, and
that step changes nothing but the PC (R107). -/
def Obligations.SkipPassesAWholeMovff : Prop :=
  ∀ (s t : State) (i : Instr), s.halted = none → decode s.fetch1 s.fetch2 = .ok i → i.width = 2 → s.StepsOk t →
    t.pc = (s.pc + 4) % s.cfg.pmemBytes → (s.pmRead (s.pc + 2)).extractLsb' 12 4 = 0xC#4 →
    (s.pmRead (s.pc + 4)).extractLsb' 12 4 = 0xF#4 →
    step t = .next { t with pc := (s.pc + 6) % s.cfg.pmemBytes }

/-! ### Arithmetic instructions -/

/-- ADDWF completes from every state: f + W stored per d, all five flags of the addition, nothing else (R118). -/
def Obligations.AddwfResultFlagsAndFrame : Prop :=
  ∀ (f : Byte) (d : Dest) (a : Access) (s : State),
    let x := s.memRead (effAddr f a s)
    ∃ t, exec (.addwf f d a) s = .next t ∧
      s.StoresByteAndFlags t (destAddr f d a s) (x + s.w) 0x1F#8 (flagsAdd x s.w false).2.pack

/-- ADDLW completes from every state: W + k in W, all five flags, nothing else (R119). -/
def Obligations.AddlwResultFlagsAndFrame : Prop :=
  ∀ (k : Byte) (s : State),
    ∃ t, exec (.addlw k) s = .next t ∧
      s.StoresByteAndFlags t addrWreg (s.w + k) 0x1F#8 (flagsAdd s.w k false).2.pack

/-- ADDWFC completes from every state: f + W + STATUS.C of before stored per d, all five flags, nothing else (R120). -/
def Obligations.AddwfcResultFlagsAndFrame : Prop :=
  ∀ (f : Byte) (d : Dest) (a : Access) (s : State),
    let x := s.memRead (effAddr f a s)
    let cin := s.status.getLsbD 0
    ∃ t, exec (.addwfc f d a) s = .next t ∧
      s.StoresByteAndFlags t (destAddr f d a s) (x + s.w + (if cin then 1#8 else 0#8)) 0x1F#8
        (flagsAdd x s.w cin).2.pack

/-- INCF completes from every state: f + 1 stored per d, all five flags of the addition, nothing else (R121). -/
def Obligations.IncfResultFlagsAndFrame : Prop :=
  ∀ (f : Byte) (d : Dest) (a : Access) (s : State),
    let x := s.memRead (effAddr f a s)
    ∃ t, exec (.incf f d a) s = .next t ∧
      s.StoresByteAndFlags t (destAddr f d a s) (x + 1#8) 0x1F#8 (flagsAdd x 1#8 false).2.pack

/-- DECF completes from every state: f - 1 stored per d, all five flags of the subtraction, nothing else (R122). -/
def Obligations.DecfResultFlagsAndFrame : Prop :=
  ∀ (f : Byte) (d : Dest) (a : Access) (s : State),
    let x := s.memRead (effAddr f a s)
    ∃ t, exec (.decf f d a) s = .next t ∧
      s.StoresByteAndFlags t (destAddr f d a s) (x - 1#8) 0x1F#8 (flagsSub x 1#8).2.pack

/-! ### Logic instructions: Z and N of the result r as STATUS bits 2 and 4 -/

/-- ANDWF completes from every state: f AND W stored per d, Z and N, nothing else (R123). -/
def Obligations.AndwfResultFlagsAndFrame : Prop :=
  ∀ (f : Byte) (d : Dest) (a : Access) (s : State),
    let r := s.memRead (effAddr f a s) &&& s.w
    ∃ t, exec (.andwf f d a) s = .next t ∧
      s.StoresByteAndFlags t (destAddr f d a s) r 0x14#8
        ((if r = 0#8 then 0x04#8 else 0#8) ||| (if r.getLsbD 7 then 0x10#8 else 0#8))

/-- ANDLW completes from every state: W AND k in W, Z and N, nothing else (R124). -/
def Obligations.AndlwResultFlagsAndFrame : Prop :=
  ∀ (k : Byte) (s : State),
    let r := s.w &&& k
    ∃ t, exec (.andlw k) s = .next t ∧
      s.StoresByteAndFlags t addrWreg r 0x14#8
        ((if r = 0#8 then 0x04#8 else 0#8) ||| (if r.getLsbD 7 then 0x10#8 else 0#8))

/-- IORWF completes from every state: f OR W stored per d, Z and N, nothing else (R125). -/
def Obligations.IorwfResultFlagsAndFrame : Prop :=
  ∀ (f : Byte) (d : Dest) (a : Access) (s : State),
    let r := s.memRead (effAddr f a s) ||| s.w
    ∃ t, exec (.iorwf f d a) s = .next t ∧
      s.StoresByteAndFlags t (destAddr f d a s) r 0x14#8
        ((if r = 0#8 then 0x04#8 else 0#8) ||| (if r.getLsbD 7 then 0x10#8 else 0#8))

/-- IORLW completes from every state: W OR k in W, Z and N, nothing else (R126). -/
def Obligations.IorlwResultFlagsAndFrame : Prop :=
  ∀ (k : Byte) (s : State),
    let r := s.w ||| k
    ∃ t, exec (.iorlw k) s = .next t ∧
      s.StoresByteAndFlags t addrWreg r 0x14#8
        ((if r = 0#8 then 0x04#8 else 0#8) ||| (if r.getLsbD 7 then 0x10#8 else 0#8))

/-- COMF completes from every state: 0xFF - f stored per d, Z and N, nothing else (R127). -/
def Obligations.ComfResultFlagsAndFrame : Prop :=
  ∀ (f : Byte) (d : Dest) (a : Access) (s : State),
    let r := 0xFF#8 - s.memRead (effAddr f a s)
    ∃ t, exec (.comf f d a) s = .next t ∧
      s.StoresByteAndFlags t (destAddr f d a s) r 0x14#8
        ((if r = 0#8 then 0x04#8 else 0#8) ||| (if r.getLsbD 7 then 0x10#8 else 0#8))

/-- CLRF completes from every state: 0 in the file register, Z set, no other flag written, nothing else; so CLRF of STATUS
leaves 0x04 and CLRF of STKPTR empties the stack (R128). -/
def Obligations.ClrfResultFlagAndFrame : Prop :=
  ∀ (f : Byte) (a : Access) (s : State),
    ∃ t, exec (.clrf f a) s = .next t ∧ s.StoresByteAndFlags t (effAddr f a s) 0#8 0x04#8 0x04#8 ∧
      (effAddr f a s = addrStatus → t.status = 0x04#8)

/-! ### Moves, multiply, NOP -/

/-- MOVF completes from every state: f stored per d, no flag, nothing else; with d = 1 no read changes at all (R129). -/
def Obligations.MovfResultAndFrame : Prop :=
  ∀ (f : Byte) (d : Dest) (a : Access) (s : State),
    ∃ t, exec (.movf f d a) s = .next t ∧
      s.StoresByte t (destAddr f d a s) (s.memRead (effAddr f a s)) 2 ∧
      (d = .file → ∀ ea, t.memRead ea = s.memRead ea)

/-- MOVFF: a reserved source, else a reserved destination, sets the latch to F_INVALID_OPERAND and changes nothing else, the
PC included; otherwise it completes: the destination holds the source's old value, nothing else but the PC, by 4; a second
word that does not begin with 1111 is no MOVFF (R130, R134). The reserved addresses are exactly the five of R130, PCL, PCLATH,
TOSL, TOSH and TOSU (the spec's decision D8). -/
def Obligations.MovffResultFaultsAndFrame : Prop :=
  (∀ addr : MovffAddr, addr ∈ movffReserved ↔
    addr = 0xFF9#12 ∨ addr = 0xFFA#12 ∨ addr = 0xFFD#12 ∨ addr = 0xFFE#12 ∨ addr = 0xFFF#12) ∧
  ∀ (fs fd : MovffAddr) (s : State),
    (fs ∈ movffReserved →
      exec (.movff fs fd) s = .next { s with halted := some ⟨.invalidOperand .source fs, s.pc⟩ }) ∧
    (fs ∉ movffReserved → fd ∈ movffReserved →
      exec (.movff fs fd) s = .next { s with halted := some ⟨.invalidOperand .destination fd, s.pc⟩ }) ∧
    (fs ∉ movffReserved → fd ∉ movffReserved →
      ∃ t, exec (.movff fs fd) s = .next t ∧ s.StoresByte t (movffAddr fd) (s.memRead (movffAddr fs)) 4) ∧
    (∀ w1 w2 : Word, w1.extractLsb' 12 4 = 0xC#4 → w2.extractLsb' 12 4 ≠ 0xF#4 →
      decode w1 w2 = .error (.movffWord2 w2))

/-- MOVWF completes from every state: W in the file register, no flag, nothing else (R131). -/
def Obligations.MovwfResultAndFrame : Prop :=
  ∀ (f : Byte) (a : Access) (s : State),
    ∃ t, exec (.movwf f a) s = .next t ∧ s.StoresByte t (effAddr f a s) s.w 2

/-- MULWF completes from every state: PRODH:PRODL is the unsigned product of the old W and the old f, also where f is W, PRODL
or PRODH; every other cell reads as before, nothing else changes (R132). -/
def Obligations.MulwfProductAndFrame : Prop :=
  ∀ (f : Byte) (a : Access) (s : State),
    ∃ t, exec (.mulwf f a) s = .next t ∧
      t.prodh.toNat * 256 + t.prodl.toNat = s.w.toNat * (s.memRead (effAddr f a s)).toNat ∧
      (∀ ea, ea ≠ addrProdl → ea ≠ addrProdh → t.memRead ea = s.memRead ea) ∧
      t.pc = (s.pc + 2) % s.cfg.pmemBytes ∧ s.SameOutsideDataAndPc t

/-- NOP completes from every state in both its forms and changes the PC alone (R133). -/
def Obligations.NopOnlyAdvances : Prop :=
  ∀ (x : BitVec 12) (s : State),
    exec .nop s = .next { s with pc := (s.pc + 2) % s.cfg.pmemBytes } ∧
    exec (.nopF x) s = .next { s with pc := (s.pc + 2) % s.cfg.pmemBytes }

/-! ### Skips: the PC is 4 bytes on when the condition holds and 2 otherwise, and no flag is written -/

/-- INCFSZ completes from every state: f + 1 stored per d, skip when the result is 0, which only 0xFF gives (R135). -/
def Obligations.IncfszResultSkipAndFrame : Prop :=
  ∀ (f : Byte) (d : Dest) (a : Access) (s : State),
    let x := s.memRead (effAddr f a s)
    ∃ t, exec (.incfsz f d a) s = .next t ∧
      s.StoresByte t (destAddr f d a s) (x + 1#8) (if x = 0xFF#8 then 4 else 2)

/-- DECFSZ completes from every state: f - 1 stored per d, skip when the result is 0, which only 0x01 gives (R136). -/
def Obligations.DecfszResultSkipAndFrame : Prop :=
  ∀ (f : Byte) (d : Dest) (a : Access) (s : State),
    let x := s.memRead (effAddr f a s)
    ∃ t, exec (.decfsz f d a) s = .next t ∧
      s.StoresByte t (destAddr f d a s) (x - 1#8) (if x = 0x01#8 then 4 else 2)

/-- INFSNZ completes from every state: f + 1 stored per d, skip unless f is 0xFF (R137). -/
def Obligations.InfsnzResultSkipAndFrame : Prop :=
  ∀ (f : Byte) (d : Dest) (a : Access) (s : State),
    let x := s.memRead (effAddr f a s)
    ∃ t, exec (.infsnz f d a) s = .next t ∧
      s.StoresByte t (destAddr f d a s) (x + 1#8) (if x = 0xFF#8 then 2 else 4)

/-- DCFSNZ completes from every state: f - 1 stored per d, skip unless f is 0x01 (R138). -/
def Obligations.DcfsnzResultSkipAndFrame : Prop :=
  ∀ (f : Byte) (d : Dest) (a : Access) (s : State),
    let x := s.memRead (effAddr f a s)
    ∃ t, exec (.dcfsnz f d a) s = .next t ∧
      s.StoresByte t (destAddr f d a s) (x - 1#8) (if x = 0x01#8 then 2 else 4)

/-- The compares complete from every state and change the PC alone: CPFSEQ skips when W = f, CPFSGT when W > f, CPFSLT when
W < f, unsigned, in the source's orientation (R139, R140, R141, C3). -/
def Obligations.CompareSkipsChangeOnlyThePc : Prop :=
  ∀ (f : Byte) (a : Access) (s : State),
    let x := (s.memRead (effAddr f a s)).toNat
    let w := s.w.toNat
    let moved (n : Nat) : State := { s with pc := (s.pc + n) % s.cfg.pmemBytes }
    exec (.cpfseq f a) s = .next (moved (if w = x then 4 else 2)) ∧
    exec (.cpfsgt f a) s = .next (moved (if x < w then 4 else 2)) ∧
    exec (.cpfslt f a) s = .next (moved (if w < x then 4 else 2))

/-! ### Host operations -/

/-- Push: outside [0, PMEM_BYTES) it is refused and does nothing; on a full stack it sets STKFUL, records the overflow and
drops the address; otherwise it writes slot SP, increments SP, keeps STKPTR bits 7:5 and records the push. No other cell and
nothing else changes (R99, R100). -/
def Obligations.PushWritesASlotOrSaturates : Prop :=
  ∀ s : State,
    (∀ addr : Int, ¬(0 ≤ addr ∧ addr < s.cfg.pmemBytes) →
      hostExec (.push addr) s = (s, .refused (.pushRange addr))) ∧
    (∀ addr : Nat, addr < s.cfg.pmemBytes →
      let t := (hostExec (.push addr) s).1
      let recorded (e : TraceEvent) : Prop :=
        t.trace = (s.traceRecord e).trace ∧ t.tw = (s.traceRecord e).tw ∧ t.tr = (s.traceRecord e).tr
      (hostExec (.push addr) s).2 = .done ∧
      (∀ ea, ea ≠ addrStkptr → t.memRead ea = s.memRead ea) ∧ t.cfg = s.cfg ∧ t.pc = s.pc ∧ t.pm = s.pm ∧
      t.halted = s.halted ∧ t.resetCount = s.resetCount ∧
      (s.sp = 31#5 → t.stkptr = s.stkptr ||| 0x80#8 ∧ t.stack = s.stack ∧ recorded (.stackOverflow addr)) ∧
      (s.sp ≠ 31#5 →
        (∀ i : Fin stackDepth, t.stack[i.val] = if i.val = s.sp.toNat then .holds addr else s.stack[i.val]) ∧
        t.sp = s.sp + 1#5 ∧ t.stkptr &&& 0xE0#8 = s.stkptr &&& 0xE0#8 ∧ t.stkptr = s.stkptr + 1#8 ∧
        recorded (.push addr)))

/-- Pop: on an empty stack it sets STKUNF, records the underflow and returns none; otherwise it decrements SP, keeps STKPTR
bits 7:5, returns the address the slot holds and records it. No slot, no other cell and nothing else changes (R101). -/
def Obligations.PopReadsASlotOrUnderflows : Prop :=
  ∀ s : State,
    let t := (hostExec .pop s).1
    let recorded (e : TraceEvent) : Prop :=
      t.trace = (s.traceRecord e).trace ∧ t.tw = (s.traceRecord e).tw ∧ t.tr = (s.traceRecord e).tr
    (∀ ea, ea ≠ addrStkptr → t.memRead ea = s.memRead ea) ∧ t.cfg = s.cfg ∧ t.pc = s.pc ∧ t.pm = s.pm ∧
    t.stack = s.stack ∧ t.halted = s.halted ∧ t.resetCount = s.resetCount ∧
    (s.sp = 0#5 →
      (hostExec .pop s).2 = .popped none ∧ t.stkptr = s.stkptr ||| 0x40#8 ∧ recorded .stackUnderflow) ∧
    (s.sp ≠ 0#5 → t.sp = s.sp - 1#5 ∧ t.stkptr &&& 0xE0#8 = s.stkptr &&& 0xE0#8 ∧
      (∃ v, (hostExec .pop s).2 = .popped (some v) ∧ recorded (.pop v)) ∧
      ∀ v, s.stack[(s.sp - 1#5).toNat]? = some (.holds v) → (hostExec .pop s).2 = .popped (some v))

/-- A Pop that reads a slot no Push has written since Reset returns some address in [0, PMEM_BYTES); nothing more is known of
it (R31). -/
def Obligations.PopOfAnUnwrittenSlotStaysInRange : Prop :=
  ∀ s : State, s.sp ≠ 0#5 → s.stack[(s.sp - 1#5).toNat]? = some .unwritten →
    ∃ v, (hostExec .pop s).2 = .popped (some v) ∧ v < s.cfg.pmemBytes

/-- The stack laws: from SP = 0, 31 pushes of addresses in range leave STKFUL as it was; a 32nd sets it and leaves the 31
slots; 31 pops return the addresses in reverse order; a 32nd sets STKUNF and returns none (R102). -/
def Obligations.StackReturnsThirtyOneAddressesInReverse : Prop :=
  ∀ (s : State) (addrs : List Nat) (extra : Nat), s.sp = 0#5 → addrs.length = 31 →
    (∀ a ∈ addrs, a < s.cfg.pmemBytes) → extra < s.cfg.pmemBytes →
    let s1 := (hostRun (addrs.map fun a => .push (a : Int)) s).1
    let s2 := (hostExec (.push (extra : Int)) s1).1
    let s3 := (hostRun (List.replicate 31 .pop) s2).1
    s1.sp = 31#5 ∧ s1.stkptr.getLsbD 7 = s.stkptr.getLsbD 7 ∧
    s2.stkptr.getLsbD 7 = true ∧ s2.stack = s1.stack ∧
    (hostRun (List.replicate 31 .pop) s2).2 = addrs.reverse.map (fun a => .popped (some a)) ∧
    (hostExec .pop s3).2 = .popped none ∧ (hostExec .pop s3).1.stkptr.getLsbD 6 = true

/-- STKFUL and STKUNF are sticky: an operation that finds one set and leaves it clear is Reset, a host write of a Byte to
STKPTR with that bit clear, or the step of a decoded instruction that stores its result to STKPTR. Push and Pop test only SP:
whatever the other bits of STKPTR, they answer the same and do the same to SP, the slots and the trace (R103). -/
def Obligations.StickyBitsAreClearedOnlyByDataWritesOrReset : Prop :=
  (∀ (op : HostOp) (s : State) (bit : Nat), bit = 6 ∨ bit = 7 → s.stkptr.getLsbD bit = true →
    (hostExec op s).1.stkptr.getLsbD bit = true ∨ op = .reset ∨
    (∃ v : Byte, op = .dmWrite 0xFFC v.toNat ∧ v.getLsbD bit = false) ∨
    (op = .step ∧ s.halted = none ∧ ∃ i, decode s.fetch1 s.fetch2 = .ok i ∧ addrStkptr ∈ resultCells i s)) ∧
  (∀ (op : HostOp) (s : State) (p : Byte), (op = .pop ∨ ∃ addr, op = .push addr) → p.extractLsb' 0 5 = s.sp →
    let t := hostExec op s
    let u := hostExec op (s.memWrite addrStkptr p)
    u.2 = t.2 ∧ u.1.sp = t.1.sp ∧ u.1.stack = t.1.stack ∧ u.1.trace = t.1.trace ∧ u.1.tw = t.1.tw ∧ u.1.tr = t.1.tr)

/-- The ring is a bounded queue of its unread events: recording appends, dropping the oldest when 127 are unread; reading takes
the oldest or reports exhaustion; at most 127 are ever unread (R33, R110, R112, R113). -/
def Obligations.TraceRingIsABoundedLossyQueue : Prop :=
  ∀ s : State, s.unread.length ≤ 127 ∧
    (∀ e, (s.traceRecord e).unread = (if s.unread.length = 127 then s.unread.tail else s.unread) ++ [e]) ∧
    (s.unread = [] → hostExec .traceRead s = (s, .event none)) ∧
    (∀ e es, s.unread = e :: es →
      (hostExec .traceRead s).2 = .event (some e) ∧ (hostExec .traceRead s).1.unread = es)

/-- PCAdvance moves the PC by any integer modulo PMEM_BYTES and nothing else; PCRead returns it without effect (R105, R106). -/
def Obligations.PcAdvanceIsModular : Prop :=
  ∀ (s : State) (delta : Int),
    let t := (hostExec (.pcAdvance delta) s).1
    (t.pc : Int) = ((s.pc : Int) + delta) % s.cfg.pmemBytes ∧ t = { s with pc := t.pc } ∧
    (s.pc + 1 = s.cfg.pmemBytes → (t.pc : Int) = (delta - 1) % s.cfg.pmemBytes) ∧
    hostExec .pcRead s = (s, .pcIs s.pc)

/-- Reset: every data cell 0, the PC 0, every stack slot unwritten, the trace empty with both cursors 0, the latch clear,
program memory kept (R159); power-on, at every PMEM_BYTES, is the same with every program cell the NOP word 0x0000 (R160), and
`State.reset` is a power-on state (its size is the model's choice, log entry 1). -/
def Obligations.ResetClearsAllButProgramMemory : Prop :=
  (∀ s : State,
    let t := (hostExec .reset s).1
    (∀ ea, t.memRead ea = 0#8) ∧ t.pc = 0 ∧ (∀ i : Fin stackDepth, t.stack[i.val] = .unwritten) ∧
    t.tw = 0 ∧ t.tr = 0 ∧ t.unread = [] ∧ t.halted = none ∧ t.pm = s.pm ∧ t.cfg = s.cfg) ∧
  (∀ cfg : Config,
    let t := State.powerOn cfg
    (∀ ea, t.memRead ea = 0#8) ∧ t.pc = 0 ∧ (∀ i : Fin stackDepth, t.stack[i.val] = .unwritten) ∧
    t.tw = 0 ∧ t.tr = 0 ∧ t.unread = [] ∧ t.halted = none ∧ (∀ n, Memory.read t.pm n = 0x0000#16) ∧ t.cfg = cfg) ∧
  ∃ cfg : Config, State.reset = State.powerOn cfg
end

