-- ==== Sys2Proof/Laws/State.lean ====
section
/-! SUPPORT. One lemma per field and update of State: which fields an update leaves alone, and what it writes. -/

namespace Sys2Proof.Machine.State

/-! ### MemWrite -/

@[simp] theorem memWrite_cfg (s : State) (ea : DataAddr) (v : Byte) : (s.memWrite ea v).cfg = s.cfg := rfl

@[simp] theorem memWrite_dm (s : State) (ea : DataAddr) (v : Byte) : (s.memWrite ea v).dm = Memory.write s.dm ea.toNat v := rfl

@[simp] theorem memWrite_pc (s : State) (ea : DataAddr) (v : Byte) : (s.memWrite ea v).pc = s.pc := rfl

@[simp] theorem memWrite_pm (s : State) (ea : DataAddr) (v : Byte) : (s.memWrite ea v).pm = s.pm := rfl

@[simp] theorem memWrite_stack (s : State) (ea : DataAddr) (v : Byte) : (s.memWrite ea v).stack = s.stack := rfl

@[simp] theorem memWrite_trace (s : State) (ea : DataAddr) (v : Byte) : (s.memWrite ea v).trace = s.trace := rfl

@[simp] theorem memWrite_tw (s : State) (ea : DataAddr) (v : Byte) : (s.memWrite ea v).tw = s.tw := rfl

@[simp] theorem memWrite_tr (s : State) (ea : DataAddr) (v : Byte) : (s.memWrite ea v).tr = s.tr := rfl

@[simp] theorem memWrite_halted (s : State) (ea : DataAddr) (v : Byte) : (s.memWrite ea v).halted = s.halted := rfl

@[simp] theorem memWrite_resetCount (s : State) (ea : DataAddr) (v : Byte) : (s.memWrite ea v).resetCount = s.resetCount := rfl

/-! ### Program-memory write -/

@[simp] theorem pmWrite_cfg (s : State) (addr : Nat) (v : Word) : (s.pmWrite addr v).cfg = s.cfg := rfl

@[simp] theorem pmWrite_dm (s : State) (addr : Nat) (v : Word) : (s.pmWrite addr v).dm = s.dm := rfl

@[simp] theorem pmWrite_pc (s : State) (addr : Nat) (v : Word) : (s.pmWrite addr v).pc = s.pc := rfl

@[simp] theorem pmWrite_pm (s : State) (addr : Nat) (v : Word) : (s.pmWrite addr v).pm = Memory.write s.pm (addr % s.cfg.pmemBytes / 2) v := rfl

@[simp] theorem pmWrite_stack (s : State) (addr : Nat) (v : Word) : (s.pmWrite addr v).stack = s.stack := rfl

@[simp] theorem pmWrite_trace (s : State) (addr : Nat) (v : Word) : (s.pmWrite addr v).trace = s.trace := rfl

@[simp] theorem pmWrite_tw (s : State) (addr : Nat) (v : Word) : (s.pmWrite addr v).tw = s.tw := rfl

@[simp] theorem pmWrite_tr (s : State) (addr : Nat) (v : Word) : (s.pmWrite addr v).tr = s.tr := rfl

@[simp] theorem pmWrite_halted (s : State) (addr : Nat) (v : Word) : (s.pmWrite addr v).halted = s.halted := rfl

@[simp] theorem pmWrite_resetCount (s : State) (addr : Nat) (v : Word) : (s.pmWrite addr v).resetCount = s.resetCount := rfl

/-! ### PC write -/

@[simp] theorem setPc_cfg (s : State) (target : Int) : (s.setPc target).cfg = s.cfg := rfl

@[simp] theorem setPc_dm (s : State) (target : Int) : (s.setPc target).dm = s.dm := rfl

@[simp] theorem setPc_pc (s : State) (target : Int) : (s.setPc target).pc = (target % (s.cfg.pmemBytes : Int)).toNat := rfl

@[simp] theorem setPc_pm (s : State) (target : Int) : (s.setPc target).pm = s.pm := rfl

@[simp] theorem setPc_stack (s : State) (target : Int) : (s.setPc target).stack = s.stack := rfl

@[simp] theorem setPc_trace (s : State) (target : Int) : (s.setPc target).trace = s.trace := rfl

@[simp] theorem setPc_tw (s : State) (target : Int) : (s.setPc target).tw = s.tw := rfl

@[simp] theorem setPc_tr (s : State) (target : Int) : (s.setPc target).tr = s.tr := rfl

@[simp] theorem setPc_halted (s : State) (target : Int) : (s.setPc target).halted = s.halted := rfl

@[simp] theorem setPc_resetCount (s : State) (target : Int) : (s.setPc target).resetCount = s.resetCount := rfl

/-! ### PCAdvance -/

@[simp] theorem pcAdvance_cfg (s : State) (delta : Int) : (s.pcAdvance delta).cfg = s.cfg := rfl

@[simp] theorem pcAdvance_dm (s : State) (delta : Int) : (s.pcAdvance delta).dm = s.dm := rfl

@[simp] theorem pcAdvance_pc (s : State) (delta : Int) : (s.pcAdvance delta).pc = ((s.pc + delta) % (s.cfg.pmemBytes : Int)).toNat := rfl

@[simp] theorem pcAdvance_pm (s : State) (delta : Int) : (s.pcAdvance delta).pm = s.pm := rfl

@[simp] theorem pcAdvance_stack (s : State) (delta : Int) : (s.pcAdvance delta).stack = s.stack := rfl

@[simp] theorem pcAdvance_trace (s : State) (delta : Int) : (s.pcAdvance delta).trace = s.trace := rfl

@[simp] theorem pcAdvance_tw (s : State) (delta : Int) : (s.pcAdvance delta).tw = s.tw := rfl

@[simp] theorem pcAdvance_tr (s : State) (delta : Int) : (s.pcAdvance delta).tr = s.tr := rfl

@[simp] theorem pcAdvance_halted (s : State) (delta : Int) : (s.pcAdvance delta).halted = s.halted := rfl

@[simp] theorem pcAdvance_resetCount (s : State) (delta : Int) : (s.pcAdvance delta).resetCount = s.resetCount := rfl

/-! ### Raising a fault -/

@[simp] theorem raise_cfg (s : State) (k : StepFault) : (s.raise k).cfg = s.cfg := rfl

@[simp] theorem raise_dm (s : State) (k : StepFault) : (s.raise k).dm = s.dm := rfl

@[simp] theorem raise_pc (s : State) (k : StepFault) : (s.raise k).pc = s.pc := rfl

@[simp] theorem raise_pm (s : State) (k : StepFault) : (s.raise k).pm = s.pm := rfl

@[simp] theorem raise_stack (s : State) (k : StepFault) : (s.raise k).stack = s.stack := rfl

@[simp] theorem raise_trace (s : State) (k : StepFault) : (s.raise k).trace = s.trace := rfl

@[simp] theorem raise_tw (s : State) (k : StepFault) : (s.raise k).tw = s.tw := rfl

@[simp] theorem raise_tr (s : State) (k : StepFault) : (s.raise k).tr = s.tr := rfl

@[simp] theorem raise_halted (s : State) (k : StepFault) : (s.raise k).halted = some ⟨k, s.pc⟩ := rfl

@[simp] theorem raise_resetCount (s : State) (k : StepFault) : (s.raise k).resetCount = s.resetCount := rfl

/-! ### TraceRecord -/

@[simp] theorem traceRecord_cfg (s : State) (e : TraceEvent) : (s.traceRecord e).cfg = s.cfg := rfl

@[simp] theorem traceRecord_dm (s : State) (e : TraceEvent) : (s.traceRecord e).dm = s.dm := rfl

@[simp] theorem traceRecord_pc (s : State) (e : TraceEvent) : (s.traceRecord e).pc = s.pc := rfl

@[simp] theorem traceRecord_pm (s : State) (e : TraceEvent) : (s.traceRecord e).pm = s.pm := rfl

@[simp] theorem traceRecord_stack (s : State) (e : TraceEvent) : (s.traceRecord e).stack = s.stack := rfl

@[simp] theorem traceRecord_trace (s : State) (e : TraceEvent) : (s.traceRecord e).trace = s.trace.set s.tw.val e := rfl

@[simp] theorem traceRecord_tw (s : State) (e : TraceEvent) : (s.traceRecord e).tw = s.tw + 1 := rfl

@[simp] theorem traceRecord_tr (s : State) (e : TraceEvent) : (s.traceRecord e).tr = if s.tw + 1 = s.tr then s.tr + 1 else s.tr := rfl

@[simp] theorem traceRecord_halted (s : State) (e : TraceEvent) : (s.traceRecord e).halted = s.halted := rfl

@[simp] theorem traceRecord_resetCount (s : State) (e : TraceEvent) : (s.traceRecord e).resetCount = s.resetCount := rfl

/-! ### Reset -/

@[simp] theorem doReset_cfg (s : State) : s.doReset.cfg = s.cfg := rfl

@[simp] theorem doReset_dm (s : State) : s.doReset.dm = [] := rfl

@[simp] theorem doReset_pc (s : State) : s.doReset.pc = 0 := rfl

@[simp] theorem doReset_pm (s : State) : s.doReset.pm = s.pm := rfl

@[simp] theorem doReset_stack (s : State) : s.doReset.stack = Vector.replicate stackDepth .unwritten := rfl

@[simp] theorem doReset_trace (s : State) : s.doReset.trace = Vector.replicate traceCapacity .stackUnderflow := rfl

@[simp] theorem doReset_tw (s : State) : s.doReset.tw = 0 := rfl

@[simp] theorem doReset_tr (s : State) : s.doReset.tr = 0 := rfl

@[simp] theorem doReset_halted (s : State) : s.doReset.halted = none := rfl

@[simp] theorem doReset_resetCount (s : State) : s.doReset.resetCount = s.resetCount + 1 := rfl

/-! ### Reads that do not look at the updated field -/

@[simp] theorem memRead_setPc (s : State) (target : Int) (ea : DataAddr) : (s.setPc target).memRead ea = s.memRead ea := rfl

@[simp] theorem memRead_pcAdvance (s : State) (delta : Int) (ea : DataAddr) : (s.pcAdvance delta).memRead ea = s.memRead ea := rfl

@[simp] theorem memRead_raise (s : State) (k : StepFault) (ea : DataAddr) : (s.raise k).memRead ea = s.memRead ea := rfl

@[simp] theorem memRead_pmWrite (s : State) (addr : Nat) (v : Word) (ea : DataAddr) : (s.pmWrite addr v).memRead ea = s.memRead ea := rfl

@[simp] theorem memRead_traceRecord (s : State) (e : TraceEvent) (ea : DataAddr) : (s.traceRecord e).memRead ea = s.memRead ea := rfl

@[simp] theorem memRead_doReset (s : State) (ea : DataAddr) : s.doReset.memRead ea = 0#8 := rfl

end Sys2Proof.Machine.State
end

