-- ==== Sys2Proof/Laws/Memory.lean ====
section
/-! SUPPORT. The laws of memory: a read after a write, and that a write keeps the canonical form. The read laws hold of every
list; the canonical form is needed only where two memories are compared as data. -/

namespace Sys2Proof.Machine

namespace Memory

variable {w : Nat}

theorem read_erase_same (m : Memory w) (a : Nat) : (m.erase a).read a = 0#w := by
  induction m with
  | nil => rfl
  | cons p m ih =>
    obtain ⟨b, x⟩ := p
    by_cases h : b = a <;> simp [erase, read, h, ih]

theorem read_erase_other (m : Memory w) {a c : Nat} (h : c ≠ a) : (m.erase a).read c = m.read c := by
  induction m with
  | nil => rfl
  | cons p m ih =>
    obtain ⟨b, x⟩ := p
    by_cases hb : b = a
    · have hc : ¬ a = c := fun e => h e.symm
      simp [erase, read, hb, hc, ih]
    · simp [erase, read, hb, ih]

theorem read_insert_erase_same (m : Memory w) (a : Nat) (v : BitVec w) : read (insert (erase m a) a v) a = v := by
  induction m with
  | nil => simp [erase, insert, read]
  | cons p m ih =>
    obtain ⟨b, x⟩ := p
    by_cases hb : b = a
    · simpa [erase, hb] using ih
    · by_cases hlt : a < b <;> simp [erase, insert, read, hb, hlt, ih]

theorem read_insert_other (m : Memory w) {a c : Nat} (v : BitVec w) (h : c ≠ a) : (m.insert a v).read c = m.read c := by
  have hc : ¬ a = c := fun e => h e.symm
  induction m with
  | nil => simp [insert, read, hc]
  | cons p m ih =>
    obtain ⟨b, x⟩ := p
    by_cases hlt : a < b <;> simp [insert, read, hlt, hc, ih]

/-- A read after a write to the same cell gives the value written. -/
theorem read_write_same (m : Memory w) (a : Nat) (v : BitVec w) : (m.write a v).read a = v := by
  by_cases hv : v = 0#w
  · simp [write, hv, read_erase_same]
  · simp [write, hv, read_insert_erase_same]

/-- A write leaves every other cell alone. -/
theorem read_write_other (m : Memory w) {a c : Nat} (v : BitVec w) (h : c ≠ a) : (m.write a v).read c = m.read c := by
  by_cases hv : v = 0#w
  · simp [write, hv, read_erase_other m h]
  · simp [write, hv, read_insert_other _ v h, read_erase_other m h]

theorem wfFrom_mono {hi lo lo' : Nat} {m : Memory w} (h : wfFrom hi lo m = true) (hle : lo' ≤ lo) :
    wfFrom hi lo' m = true := by
  cases m with
  | nil => rfl
  | cons p m =>
    obtain ⟨b, x⟩ := p
    simp only [wfFrom, Bool.and_eq_true, decide_eq_true_eq] at h ⊢
    exact ⟨⟨⟨le_trans hle h.1.1.1, h.1.1.2⟩, h.1.2⟩, h.2⟩

theorem wfFrom_erase {hi lo : Nat} {m : Memory w} (a : Nat) (h : wfFrom hi lo m = true) :
    wfFrom hi lo (m.erase a) = true := by
  induction m generalizing lo with
  | nil => rfl
  | cons p m ih =>
    obtain ⟨b, x⟩ := p
    simp only [wfFrom, Bool.and_eq_true, decide_eq_true_eq] at h
    by_cases hb : b = a
    · simp only [erase, hb, if_true]
      exact wfFrom_mono (ih h.2) (by omega)
    · simp only [erase, hb, if_false, wfFrom, Bool.and_eq_true, decide_eq_true_eq]
      exact ⟨h.1, ih h.2⟩

theorem wfFrom_insert {hi lo a : Nat} {m : Memory w} {v : BitVec w} (h : wfFrom hi lo (m.erase a) = true)
    (hlo : lo ≤ a) (hhi : a < hi) (hv : v ≠ 0#w) : wfFrom hi lo ((m.erase a).insert a v) = true := by
  induction m generalizing lo with
  | nil => simp [erase, insert, wfFrom, hlo, hhi, hv]
  | cons p m ih =>
    obtain ⟨b, x⟩ := p
    by_cases hb : b = a
    · simp only [erase, hb, if_true] at h ⊢
      exact ih h hlo
    · simp only [erase, hb, if_false, wfFrom, Bool.and_eq_true, decide_eq_true_eq] at h ⊢
      by_cases hlt : a < b
      · simp only [insert, hlt, if_true, wfFrom, Bool.and_eq_true, decide_eq_true_eq]
        exact ⟨⟨⟨hlo, hhi⟩, hv⟩, ⟨⟨by omega, h.1.1.2⟩, h.1.2⟩, h.2⟩
      · simp only [insert, hlt, if_false, wfFrom, Bool.and_eq_true, decide_eq_true_eq]
        exact ⟨h.1, ih h.2 (by omega)⟩

/-- A write inside the memory keeps the canonical form. -/
theorem wf_write {size a : Nat} {m : Memory w} (v : BitVec w) (h : m.wf size = true) (ha : a < size) :
    (m.write a v).wf size = true := by
  by_cases hv : v = 0#w
  · simpa [write, hv, wf] using wfFrom_erase a h
  · simpa [write, hv, wf] using wfFrom_insert (wfFrom_erase a h) (Nat.zero_le a) ha hv

@[simp] theorem wf_nil (size : Nat) : Memory.wf size ([] : Memory w) = true := rfl

end Memory

namespace State

/-- MemRead after MemWrite (R42, R43). -/
theorem memRead_memWrite (s : State) (ea ea' : DataAddr) (v : Byte) :
    (s.memWrite ea v).memRead ea' = if ea' = ea then v else s.memRead ea' := by
  by_cases h : ea' = ea
  · simp [h, memRead, Memory.read_write_same]
  · have : ea'.toNat ≠ ea.toNat := fun e => h (BitVec.eq_of_toNat_eq e)
    simp [h, memRead, Memory.read_write_other _ v this]

@[simp] theorem memRead_memWrite_same (s : State) (ea : DataAddr) (v : Byte) : (s.memWrite ea v).memRead ea = v := by
  simp [memRead_memWrite]

theorem memRead_memWrite_other (s : State) {ea ea' : DataAddr} (v : Byte) (h : ea' ≠ ea) :
    (s.memWrite ea v).memRead ea' = s.memRead ea' := by
  simp [memRead_memWrite, h]

/-- A data write keeps the canonical form of data memory (R16). -/
theorem memWrite_dm_wf (s : State) (ea : DataAddr) (v : Byte) (h : Memory.wf 65536 s.dm = true) :
    Memory.wf 65536 (s.memWrite ea v).dm = true :=
  Memory.wf_write v h ea.isLt

theorem pmemBytes_pos (c : Config) : 0 < c.pmemBytes := by
  simp [Config.pmemBytes, Config.pmemWords]

/-- The word index of every program address lies in program memory (R50). -/
theorem pmIndex_lt (c : Config) (addr : Nat) : addr % c.pmemBytes / 2 < c.pmemWords := by
  have h := Nat.mod_lt addr (pmemBytes_pos c)
  have : c.pmemBytes = 2 * c.pmemWords := rfl
  omega

/-- A program-memory write keeps its canonical form (R29). -/
theorem pmWrite_pm_wf (s : State) (addr : Nat) (v : Word) (h : Memory.wf s.cfg.pmemWords s.pm = true) :
    Memory.wf s.cfg.pmemWords (s.pmWrite addr v).pm = true :=
  Memory.wf_write v h (pmIndex_lt s.cfg addr)

/-- PMRead after a program-memory write (R50, R51): the words of byte addresses that share a cell are one word. -/
theorem pmRead_pmWrite (s : State) (addr addr' : Nat) (v : Word) :
    (s.pmWrite addr v).pmRead addr' =
      if addr' % s.cfg.pmemBytes / 2 = addr % s.cfg.pmemBytes / 2 then v else s.pmRead addr' := by
  by_cases h : addr' % s.cfg.pmemBytes / 2 = addr % s.cfg.pmemBytes / 2
  · simp [h, pmRead, Memory.read_write_same]
  · simp [h, pmRead, Memory.read_write_other _ v h]

end State

end Sys2Proof.Machine
end

