-- ==== Sys2Proof/Laws/Ops.lean ====
section
/-! SUPPORT. One lemma per shared operation that says all it does, cited instead of unfolding it. -/

namespace Sys2Proof.Machine

namespace State

/-- An advance by a natural number of bytes (R106, R114). -/
@[simp] theorem pcAdvance_pc_nat (s : State) (n : Nat) : (s.pcAdvance (n : Int)).pc = (s.pc + n) % s.cfg.pmemBytes := by
  rw [pcAdvance_pc, ← Nat.cast_add, ← Int.natCast_mod, Int.toNat_natCast]

/-- The PC after any advance lies in program memory (R28). -/
theorem pcAdvance_pc_lt (s : State) (delta : Int) : (s.pcAdvance delta).pc < s.cfg.pmemBytes := by
  have hpos : (0 : Int) < s.cfg.pmemBytes := by exact_mod_cast pmemBytes_pos s.cfg
  have h1 := Int.emod_nonneg (s.pc + delta) (ne_of_gt hpos)
  have h2 := Int.emod_lt_of_pos (s.pc + delta) hpos
  rw [pcAdvance_pc]
  omega

/-- A read of a popped or pushed slot that holds an address gives it (R101). -/
theorem stackValue_holds (s : State) {n addr : Nat} (h : s.stack[n]? = some (.holds addr)) : s.stackValue n = addr := by
  simp [stackValue, h]

/-- The draw for an unwritten slot lies in program memory (R31). -/
theorem stackValue_unwritten_lt (s : State) {n : Nat} (h : s.stack[n]? = some .unwritten) :
    s.stackValue n < s.cfg.pmemBytes := by
  simp [stackValue, h, Nat.mod_lt _ (pmemBytes_pos s.cfg)]

/-- The word the loader stored is the word fetched at its address (R58). -/
theorem fetch1_pmWrite_pc (s : State) (v : Word) : (s.pmWrite s.pc v).fetch1 = v := by
  simp [fetch1, pmRead_pmWrite]

/-- The first word placed by `withFetchWord` is the word at the PC. -/
theorem fetch1_withFetchWord (s : State) (nbits n : Nat) : (s.withFetchWord nbits n).fetch1 = (tableWords nbits n).1 := by
  simp [withFetchWord, fetch1, pmRead_pmWrite]

end State

/-- The end of an instruction answers a next state: the given state with the PC 2 bytes further for a taken skip (R114). -/
theorem finish_eq (s : State) (width : Nat) (skip : Bool) :
    finish s width skip = .next { s with pc := (s.pc + width + if skip then 2 else 0) % s.cfg.pmemBytes } := by
  have h : (s.pcAdvance ((width + if skip then 2 else 0 : Nat) : Int)).pc
      = (s.pc + (width + if skip then 2 else 0)) % s.cfg.pmemBytes := s.pcAdvance_pc_nat _
  cases skip <;> simpa [finish, State.pcAdvance, State.setPc, Nat.add_assoc] using h

/-- StatusUpdate on STATUS itself (R91). -/
theorem statusUpdate_status (mask : Byte) (fl : Flags) (s : State) :
    (statusUpdate mask fl s).status = (s.status &&& ~~~mask) ||| (fl.pack &&& mask) := by
  simp [statusUpdate, State.status]

/-- StatusUpdate leaves every other cell alone (R91, R96). -/
theorem statusUpdate_memRead (mask : Byte) (fl : Flags) (s : State) {ea : DataAddr} (h : ea ≠ addrStatus) :
    (statusUpdate mask fl s).memRead ea = s.memRead ea := by
  simp [statusUpdate, State.memRead_memWrite_other _ _ h]

/-- A destination write, cell by cell. -/
theorem writeDest_memRead (f : Byte) (d : Dest) (a : Access) (r : Byte) (s : State) (ea : DataAddr) :
    (writeDest f d a r s).memRead ea = if ea = destAddr f d a s then r else s.memRead ea := by
  simp [writeDest, State.memRead_memWrite]

/-- A step that is not halted and decodes runs the instruction (R114). -/
theorem step_of_decode {s : State} {i : Instr} (hh : s.halted = none) (hd : decode s.fetch1 s.fetch2 = .ok i) :
    step s = exec i s := by
  simp [step, hh, hd]

/-- A step that is not halted and does not decode sets the latch (R144). -/
theorem step_of_decode_error {s : State} {e : DecodeError} (hh : s.halted = none)
    (hd : decode s.fetch1 s.fetch2 = .error e) : step s = .next (s.raise (.ofDecode e)) := by
  simp [step, hh, hd, raiseDecode]

/-- A halted step returns its record (R145). -/
theorem step_of_halted {s : State} {r : FaultRecord} (hh : s.halted = some r) : step s = .fault (.halted r) := by
  simp [step, hh]

end Sys2Proof.Machine
end

