-- ==== Sys2Proof/Laws/Finish.lean ====
section
/-! SUPPORT. How an instruction ends: what storing a Byte, updating flags and advancing the PC do together, said once for all
meanings of that shape. -/

namespace Sys2Proof.Machine

open State

/-- The PC after a one-word instruction (R66, R107, R114). -/
theorem finish_pc_oneWord (s : State) (skip : Bool) :
    (s.pcAdvance (2 + if skip then 2 else 0)).pc = (s.pc + if skip then 4 else 2) % s.cfg.pmemBytes := by
  cases skip
  · exact s.pcAdvance_pc_nat 2
  · exact s.pcAdvance_pc_nat 4

/-- Advancing the PC leaves everything else alone. -/
theorem sameOutside_pcAdvance (s t : State) (delta : Int) (h : s.SameOutsideDataAndPc t) :
    s.SameOutsideDataAndPc (t.pcAdvance delta) :=
  ⟨h.cfg, h.pm, h.stack, h.trace, h.tw, h.tr, h.halted, h.resetCount⟩

/-- A data write leaves everything outside data memory alone (R43). -/
theorem sameOutside_memWrite (s t : State) (ea : DataAddr) (v : Byte) (h : s.SameOutsideDataAndPc t) :
    s.SameOutsideDataAndPc (t.memWrite ea v) :=
  ⟨h.cfg, h.pm, h.stack, h.trace, h.tw, h.tr, h.halted, h.resetCount⟩

theorem sameOutside_refl (s : State) : s.SameOutsideDataAndPc s := ⟨rfl, rfl, rfl, rfl, rfl, rfl, rfl, rfl⟩

/-- A one-word instruction that stores one Byte and writes no flag. -/
theorem finish_memWrite (s : State) (dst : DataAddr) (r : Byte) (skip : Bool) :
    ∃ t, finish (s.memWrite dst r) 2 skip = .next t ∧ s.StoresByte t dst r (if skip then 4 else 2) := by
  refine ⟨(s.memWrite dst r).pcAdvance _, rfl, ?_, fun ea h => ?_, finish_pc_oneWord _ _, ?_⟩
  · simp
  · simp [memRead_memWrite, h]
  · exact sameOutside_pcAdvance _ _ _ (sameOutside_memWrite _ _ _ _ (sameOutside_refl s))

/-- The two-word move stores one Byte (R130). -/
theorem finish_memWrite_twoWord (s : State) (dst : DataAddr) (r : Byte) :
    ∃ t, finish (s.memWrite dst r) 4 false = .next t ∧ s.StoresByte t dst r 4 := by
  refine ⟨(s.memWrite dst r).pcAdvance _, rfl, ?_, fun ea h => ?_, (s.memWrite dst r).pcAdvance_pc_nat 4, ?_⟩
  · simp
  · simp [memRead_memWrite, h]
  · exact sameOutside_pcAdvance _ _ _ (sameOutside_memWrite _ _ _ _ (sameOutside_refl s))

/-- A one-word instruction that stores one Byte and then the flags of a mask (R91, R92), for any Byte that agrees with the
packed flags under the mask. -/
theorem finish_statusUpdate (s : State) (dst : DataAddr) (r mask flags : Byte) (fl : Flags)
    (h : fl.pack &&& mask = flags &&& mask) :
    ∃ t, finish (statusUpdate mask fl (s.memWrite dst r)) 2 false = .next t ∧
      s.StoresByteAndFlags t dst r mask flags := by
  refine ⟨(statusUpdate mask fl (s.memWrite dst r)).pcAdvance _, rfl, fun hd => ?_, ?_, fun ea h1 h2 => ?_,
    finish_pc_oneWord _ false, ?_⟩
  · simp [statusUpdate_memRead _ _ _ hd]
  · show (statusUpdate mask fl _).status = _
    rw [statusUpdate_status, h]
    congr 2
    by_cases hd : dst = addrStatus <;> simp [State.status, memRead_memWrite, hd, eq_comm]
  · simp [statusUpdate_memRead _ _ _ h2, memRead_memWrite, h1]
  · exact sameOutside_pcAdvance _ _ _ (sameOutside_memWrite _ _ _ _ (sameOutside_memWrite _ _ _ _ (sameOutside_refl s)))

/-- An instruction answers a next state in which every cell but its result cells and STATUS reads as before, a MOVFF that
faults included (R130, R91). -/
theorem exec_memRead_of_not_mem (i : Instr) (s : State) :
    ∃ t, exec i s = .next t ∧
      ∀ ea, ea ∉ resultCells i s → ea ≠ addrStatus → t.memRead ea = s.memRead ea := by
  have flagged (dst r mask fl) : ∀ ea, ea ∉ [dst] → ea ≠ addrStatus →
      ((statusUpdate mask fl (s.memWrite dst r)).pcAdvance 2).memRead ea = s.memRead ea := fun ea h hs => by
    simp_all [statusUpdate_memRead, memRead_memWrite]
  have stored (dst r) (n : Int) : ∀ ea, ea ∉ [dst] → ea ≠ addrStatus →
      ((s.memWrite dst r).pcAdvance n).memRead ea = s.memRead ea := fun ea h _ => by
    simp_all [memRead_memWrite]
  cases i with
  | movff fs fd =>
    simp only [exec, execMovff]
    split
    · exact ⟨_, rfl, fun _ _ _ => rfl⟩
    split
    · exact ⟨_, rfl, fun _ _ _ => rfl⟩
    · exact ⟨_, rfl, stored _ _ _⟩
  | mulwf f a =>
    refine ⟨_, rfl, fun ea h _ => ?_⟩
    simp_all [resultCells, memRead_memWrite]
  | nop | nopF _ | cpfseq _ _ | cpfsgt _ _ | cpfslt _ _ => exact ⟨_, rfl, fun _ _ _ => rfl⟩
  | movf _ _ _ | movwf _ _ | incfsz _ _ _ | decfsz _ _ _ | infsnz _ _ _ | dcfsnz _ _ _ => exact ⟨_, rfl, stored _ _ _⟩
  | _ => exact ⟨_, rfl, flagged _ _ _ _⟩

end Sys2Proof.Machine
end

