-- ==== Sys2Proof/Laws/PerInstr.lean ====
section
/-! SUPPORT. What is said of every instruction as a term, one lemma per constructor: its encoding has a second word exactly
when its width is 4 (spec 30_encoding.md R59, R66). -/

namespace Sys2Proof.Laws.WidthMatchesWords

/-- The encoding has a second word exactly when the step advances by 4. -/
def Statement (i : Instr) : Prop := ((encode i).2.isSome = true ↔ i.width = 4) ∧ (i.width = 2 ∨ i.width = 4)

theorem addwf (f : Byte) (d : Dest) (a : Access) : Statement (.addwf f d a) := by simp [Statement, encode, Instr.width]

theorem addlw (k : Byte) : Statement (.addlw k) := by simp [Statement, encode, Instr.width]

theorem addwfc (f : Byte) (d : Dest) (a : Access) : Statement (.addwfc f d a) := by simp [Statement, encode, Instr.width]

theorem incf (f : Byte) (d : Dest) (a : Access) : Statement (.incf f d a) := by simp [Statement, encode, Instr.width]

theorem decf (f : Byte) (d : Dest) (a : Access) : Statement (.decf f d a) := by simp [Statement, encode, Instr.width]

theorem andwf (f : Byte) (d : Dest) (a : Access) : Statement (.andwf f d a) := by simp [Statement, encode, Instr.width]

theorem andlw (k : Byte) : Statement (.andlw k) := by simp [Statement, encode, Instr.width]

theorem iorwf (f : Byte) (d : Dest) (a : Access) : Statement (.iorwf f d a) := by simp [Statement, encode, Instr.width]

theorem iorlw (k : Byte) : Statement (.iorlw k) := by simp [Statement, encode, Instr.width]

theorem comf (f : Byte) (d : Dest) (a : Access) : Statement (.comf f d a) := by simp [Statement, encode, Instr.width]

theorem clrf (f : Byte) (a : Access) : Statement (.clrf f a) := by simp [Statement, encode, Instr.width]

theorem movf (f : Byte) (d : Dest) (a : Access) : Statement (.movf f d a) := by simp [Statement, encode, Instr.width]

theorem movff (fs fd : MovffAddr) : Statement (.movff fs fd) := by simp [Statement, encode, Instr.width]

theorem movwf (f : Byte) (a : Access) : Statement (.movwf f a) := by simp [Statement, encode, Instr.width]

theorem mulwf (f : Byte) (a : Access) : Statement (.mulwf f a) := by simp [Statement, encode, Instr.width]

theorem nop : Statement (.nop) := by simp [Statement, encode, Instr.width]

theorem nopF (x : BitVec 12) : Statement (.nopF x) := by simp [Statement, encode, Instr.width]

theorem incfsz (f : Byte) (d : Dest) (a : Access) : Statement (.incfsz f d a) := by simp [Statement, encode, Instr.width]

theorem decfsz (f : Byte) (d : Dest) (a : Access) : Statement (.decfsz f d a) := by simp [Statement, encode, Instr.width]

theorem infsnz (f : Byte) (d : Dest) (a : Access) : Statement (.infsnz f d a) := by simp [Statement, encode, Instr.width]

theorem dcfsnz (f : Byte) (d : Dest) (a : Access) : Statement (.dcfsnz f d a) := by simp [Statement, encode, Instr.width]

theorem cpfseq (f : Byte) (a : Access) : Statement (.cpfseq f a) := by simp [Statement, encode, Instr.width]

theorem cpfsgt (f : Byte) (a : Access) : Statement (.cpfsgt f a) := by simp [Statement, encode, Instr.width]

theorem cpfslt (f : Byte) (a : Access) : Statement (.cpfslt f a) := by simp [Statement, encode, Instr.width]

end Sys2Proof.Laws.WidthMatchesWords
end

