-- ==== Sys2Proof/Tests/Slice0.lean ====
section
/-! SUPPORT. Tests: every expected value comes from the spec (95_test_vectors.md, the worked examples and tables of the rules),
and every step test is one step. After them, for each statement with hypotheses, a concrete input that meets them. -/

namespace Sys2Proof.Tests

open Sys2Proof.Machine Sys2Proof.Machine.State

/-- The power-on state with some data cells set and the PC at `pc`, and up to two words placed there. -/
def start (cells : List (DataAddr × Byte)) (pc w1 w2 : Nat) : State :=
  (cells.foldl (fun (s : State) c => s.memWrite c.1 c.2) { State.reset with pc := pc }).withFetchWord 32 (w1 + 65536 * w2)

/-- The power-on state at PMEM_BYTES = 16 with the PC at `pc` and up to two words placed there. -/
def small (cells : List (DataAddr × Byte)) (pc w1 w2 : Nat) : State :=
  (cells.foldl (fun (s : State) c => s.memWrite c.1 c.2) { State.powerOn ⟨3⟩ with pc := pc }).withFetchWord 32
    (w1 + 65536 * w2)

/-- One field of the state one step on. -/
def see {α : Type} (s : State) (field : State → α) : Option α :=
  match step s with
  | .next t => some (field t)
  | .fault _ => none
  | .refused _ => none

/-! ### WellFormed refuses what R130 refuses -/

theorem test_wf_refuses_reserved_source : (Instr.movff 0xFFF#12 0x010#12).wellFormed = false := by decide
theorem test_wf_refuses_reserved_destination : (Instr.movff 0x010#12 0xFF9#12).wellFormed = false := by decide
/-- R130: the set written out; the five addresses are refused on either side, and their neighbours are not. -/
theorem test_wf_reserved_addresses :
    [0xFF8#12, 0xFF9#12, 0xFFA#12, 0xFFB#12, 0xFFC#12, 0xFFD#12, 0xFFE#12, 0xFFF#12].map
      (fun x => ((Instr.movff x 0x010#12).wellFormed, (Instr.movff 0x010#12 x).wellFormed)) =
      [(true, true), (false, false), (false, false), (true, true), (true, true), (false, false), (false, false),
        (false, false)] := by decide
theorem test_wf_takes_stkptr : (Instr.movff 0xFFC#12 0x020#12).wellFormed = true := by decide
theorem test_special_addresses_distinct :
    [addrWreg, addrBsr, addrStatus, addrStkptr, addrProdl, addrProdh].Nodup := by decide

/-! ### Decoding: one word of every constructor, written out from its pattern in R63 -/

theorem test_decode_addwf : decodeTableWord 16 0b0010010000100000 = some (.addwf 0x20#8 .w .direct) := by decide
theorem test_decode_addlw : decodeTableWord 16 0b0000111110000000 = some (.addlw 0x80#8) := by decide
theorem test_decode_addwfc : decodeTableWord 16 0b0010001111011000 = some (.addwfc 0xD8#8 .file .banked) := by decide
theorem test_decode_incf : decodeTableWord 16 0b0010101001000000 = some (.incf 0x40#8 .file .direct) := by decide
theorem test_decode_decf : decodeTableWord 16 0b0000010101010000 = some (.decf 0x50#8 .w .banked) := by decide
theorem test_decode_andwf : decodeTableWord 16 0b0001010000100000 = some (.andwf 0x20#8 .w .direct) := by decide
theorem test_decode_andlw : decodeTableWord 16 0b0000101111110000 = some (.andlw 0xF0#8) := by decide
theorem test_decode_iorwf : decodeTableWord 16 0b0001001000100001 = some (.iorwf 0x21#8 .file .direct) := by decide
theorem test_decode_iorlw : decodeTableWord 16 0b0000100100000010 = some (.iorlw 0x02#8) := by decide
theorem test_decode_comf : decodeTableWord 16 0b0001111100100010 = some (.comf 0x22#8 .file .banked) := by decide
theorem test_decode_clrf : decodeTableWord 16 0b0110101100000000 = some (.clrf 0x00#8 .banked) := by decide
theorem test_decode_movf : decodeTableWord 16 0b0101001000100000 = some (.movf 0x20#8 .file .direct) := by decide
theorem test_decode_movff : decodeTableWord 32 0b11111111111000001100000000010000 = some (.movff 0x010#12 0xFE0#12) := by decide
theorem test_decode_movwf : decodeTableWord 16 0b0110111011111111 = some (.movwf 0xFF#8 .direct) := by decide
theorem test_decode_mulwf : decodeTableWord 16 0b0000001111111111 = some (.mulwf 0xFF#8 .banked) := by decide
theorem test_decode_nop : decodeTableWord 16 0b0000000000000000 = some .nop := by decide
theorem test_decode_nopF : decodeTableWord 16 0b1111000100100011 = some (.nopF 0x123#12) := by decide
theorem test_decode_incfsz : decodeTableWord 16 0b0011111000110000 = some (.incfsz 0x30#8 .file .direct) := by decide
theorem test_decode_decfsz : decodeTableWord 16 0b0010110100110000 = some (.decfsz 0x30#8 .w .banked) := by decide
theorem test_decode_infsnz : decodeTableWord 16 0b0100100000110000 = some (.infsnz 0x30#8 .w .direct) := by decide
theorem test_decode_dcfsnz : decodeTableWord 16 0b0100111000110000 = some (.dcfsnz 0x30#8 .file .direct) := by decide
theorem test_decode_cpfseq : decodeTableWord 16 0b0110001100100000 = some (.cpfseq 0x20#8 .banked) := by decide
theorem test_decode_cpfsgt : decodeTableWord 16 0b0110010000100000 = some (.cpfsgt 0x20#8 .direct) := by decide
theorem test_decode_cpfslt : decodeTableWord 16 0b0110000000100000 = some (.cpfslt 0x20#8 .direct) := by decide

/-! Words of 95_test_vectors.md 2.10 outside the subset, and a MOVFF without its second word. -/

theorem test_decode_rejects_other_pic18_words :
    [0x0003, 0x0012, 0x0105, 0x0800, 0x0A00, 0x0E05, 0x0D00, 0x1800, 0x3000, 0x6600, 0x6800, 0x6C20, 0x8000, 0xD000,
      0xEF00].all (fun w => (decodeTableWord 16 w).isNone) = true := by decide
theorem test_decode_movff_word2 : decode 0xC010#16 0xE000#16 = .error (.movffWord2 0xE000#16) := by rfl
theorem test_decode_unsupported : decode 0xD000#16 0xF000#16 = .error (.unsupported 0xD000#16) := by rfl

/-! ### Flag engine: rows of 95_test_vectors.md 2.1 and 2.2 -/

theorem test_flagsAdd_table :
    [(0x00, 0x00, false), (0x50, 0x50, false), (0xD0, 0x50, false), (0xFF, 0x01, false), (0x80, 0x80, false),
      (0x08, 0x08, false), (0xFF, 0xFF, true), (0x7F, 0x00, true), (0x0F, 0x00, true)].map
      (fun r => let x := flagsAdd (BitVec.ofNat 8 r.1) (BitVec.ofNat 8 r.2.1) r.2.2; (x.1.toNat, x.2.pack.toNat)) =
    [(0x00, 0x04), (0xA0, 0x18), (0x20, 0x01), (0x00, 0x07), (0x00, 0x0D), (0x10, 0x02), (0xFF, 0x13), (0x80, 0x1A),
      (0x10, 0x02)] := by decide
theorem test_flagsSub_table :
    [(0x01, 0x01), (0x80, 0x01), (0x00, 0x01), (0x10, 0x01), (0x50, 0x70), (0x7F, 0x80), (0x70, 0x50), (0x80, 0x7F),
      (0x00, 0x80), (0x30, 0xF0)].map
      (fun r => let x := flagsSub (BitVec.ofNat 8 r.1) (BitVec.ofNat 8 r.2); (x.1.toNat, x.2.pack.toNat)) =
    [(0x00, 0x07), (0x7F, 0x09), (0xFF, 0x10), (0x0F, 0x01), (0xE0, 0x12), (0xFF, 0x1A), (0x20, 0x03), (0x01, 0x09),
      (0x80, 0x1A), (0x40, 0x02)] := by decide

/-! ### Instructions: one step each, from the tables 2.3 to 2.6 and the rules' own examples -/

/-- S1 -/
theorem test_addwf_w :
    see (start [(addrWreg, 0x70#8), (0x0020#16, 0x19#8)] 0x0000 0x2420 0)
      (fun t => (t.memRead addrWreg, t.memRead addrStatus, t.memRead 0x0020#16)) = some (0x89#8, 0x18#8, 0x19#8) := by decide
/-- 2.3.3 -/
theorem test_addwf_into_status :
    see (start [(addrBsr, 0x0F#8), (addrStatus, 0xE1#8), (addrWreg, 0xFF#8)] 0x0000 0x27D8 0)
      (fun t => (t.memRead addrStatus, t.memRead addrWreg)) = some (0xF3#8, 0xFF#8) := by decide
/-- S2 -/
theorem test_addlw :
    see (start [(addrWreg, 0x89#8)] 0x0000 0x0F80 0)
      (fun t => (t.memRead addrWreg, t.memRead addrStatus)) = some (0x09#8, 0x09#8) := by decide
/-- 2.3.4 -/
theorem test_addlw_zero :
    see (start [] 0x0000 0x0F00 0)
      (fun t => (t.memRead addrWreg, t.memRead addrStatus)) = some (0x00#8, 0x04#8) := by decide
/-- 2.3.6 -/
theorem test_addwfc_digit :
    see (start [(0x0000#16, 0x0F#8), (addrStatus, 0x01#8)] 0x0000 0x2000 0)
      (fun t => (t.memRead addrWreg, t.memRead addrStatus)) = some (0x10#8, 0x02#8) := by decide
/-- 2.3.7 -/
theorem test_addwfc_of_status :
    see (start [(addrBsr, 0x0F#8), (addrStatus, 0x01#8), (addrWreg, 0x10#8)] 0x0000 0x21D8 0)
      (fun t => (t.memRead addrWreg, t.memRead addrStatus)) = some (0x12#8, 0x00#8) := by decide
/-- 2.3.8 -/
theorem test_incf_file :
    see (start [(0x0040#16, 0xFF#8)] 0x0000 0x2A40 0)
      (fun t => (t.memRead 0x0040#16, t.memRead addrStatus)) = some (0x00#8, 0x07#8) := by decide
/-- 2.3.9 -/
theorem test_incf_w :
    see (start [(0x0040#16, 0x7F#8)] 0x0000 0x2840 0)
      (fun t => (t.memRead addrWreg, t.memRead 0x0040#16, t.memRead addrStatus)) = some (0x80#8, 0x7F#8, 0x1A#8) := by decide
/-- S3 -/
theorem test_decf_one :
    see (start [(0x0050#16, 0x01#8)] 0x0000 0x0650 0)
      (fun t => (t.memRead 0x0050#16, t.memRead addrStatus)) = some (0x00#8, 0x07#8) := by decide
/-- 2.3.10 -/
theorem test_decf_zero :
    see (start [] 0x0000 0x0400 0)
      (fun t => (t.memRead addrWreg, t.memRead 0x0000#16, t.memRead addrStatus)) = some (0xFF#8, 0x00#8, 0x10#8) := by decide
/-- 2.4.1 -/
theorem test_andwf :
    see (start [(addrStatus, 0x0B#8), (addrWreg, 0x0F#8), (0x0020#16, 0xF0#8)] 0x0000 0x1420 0)
      (fun t => (t.memRead addrWreg, t.memRead addrStatus)) = some (0x00#8, 0x0F#8) := by decide
/-- 2.4.2 -/
theorem test_andlw :
    see (start [(addrStatus, 0x0B#8), (addrWreg, 0x80#8)] 0x0000 0x0BFF 0)
      (fun t => (t.memRead addrWreg, t.memRead addrStatus)) = some (0x80#8, 0x1B#8) := by decide
/-- R125's example -/
theorem test_iorwf :
    see (start [(addrWreg, 0x80#8), (0x0021#16, 0x01#8)] 0x0000 0x1221 0)
      (fun t => (t.memRead 0x0021#16, t.memRead addrStatus, t.memRead addrWreg)) = some (0x81#8, 0x10#8, 0x80#8) := by decide
/-- 2.4.4 -/
theorem test_iorlw :
    see (start [(addrStatus, 0x1F#8), (addrWreg, 0x01#8)] 0x0000 0x0902 0)
      (fun t => (t.memRead addrWreg, t.memRead addrStatus)) = some (0x03#8, 0x0B#8) := by decide
/-- 2.4.5 -/
theorem test_comf :
    see (start [(addrStatus, 0x0B#8), (0x0020#16, 0xFF#8)] 0x0000 0x1E20 0)
      (fun t => (t.memRead 0x0020#16, t.memRead addrStatus)) = some (0x00#8, 0x0F#8) := by decide
/-- 2.4.7 -/
theorem test_clrf_stkptr :
    see (start [(addrBsr, 0x0F#8), (addrStkptr, 0xDF#8), (addrStatus, 0x11#8)] 0x0000 0x6BFC 0)
      (fun t => (t.memRead addrStkptr, t.memRead addrStatus)) = some (0x00#8, 0x15#8) := by decide
/-- 2.4.8 -/
theorem test_clrf_status :
    see (start [(addrBsr, 0x0F#8), (addrStatus, 0x1B#8)] 0x0000 0x6BD8 0)
      (fun t => (t.memRead addrStatus)) = some (0x04#8) := by decide
/-- 2.5.1 -/
theorem test_movf_writes_no_flag :
    see (start [(addrWreg, 0x33#8), (addrStatus, 0x10#8)] 0x0000 0x5020 0)
      (fun t => (t.memRead addrWreg, t.memRead addrStatus)) = some (0x00#8, 0x10#8) := by decide
/-- 2.5.2 -/
theorem test_movf_onto_itself :
    see (start [(0x0020#16, 0x80#8), (addrWreg, 0x33#8), (addrStatus, 0x04#8)] 0x0000 0x5220 0)
      (fun t => (t.memRead 0x0020#16, t.memRead addrWreg, t.memRead addrStatus, t.pc)) = some (0x80#8, 0x33#8, 0x04#8, 0x0002) := by
  decide
/-- 2.5.3 -/
theorem test_movff_from_w :
    see (start [(addrWreg, 0x77#8)] 0x0000 0xCFE8 0xF020)
      (fun t => (t.memRead 0x0020#16, t.pc)) = some (0x77#8, 0x0004) := by decide
/-- 2.5.8 -/
theorem test_movwf_top_of_memory :
    see (start [(addrWreg, 0xFF#8), (addrBsr, 0xFF#8)] 0x0000 0x6FFF 0)
      (fun t => (t.memRead 0xFFFF#16, t.memRead addrWreg)) = some (0xFF#8, 0xFF#8) := by decide
/-- 2.5.9 -/
theorem test_movwf_into_bsr :
    see (start [(addrWreg, 0x02#8), (addrBsr, 0x0F#8)] 0x0000 0x6FE0 0)
      (fun t => (t.memRead addrBsr)) = some (0x02#8) := by decide
/-- S6 -/
theorem test_mulwf :
    see (start [(addrWreg, 0xC4#8), (0x0030#16, 0xB5#8)] 0x0000 0x0230 0)
      (fun t => (t.memRead addrProdh, t.memRead addrProdl, t.memRead addrWreg)) = some (0x8A#8, 0x94#8, 0xC4#8) := by decide
/-- 2.5.12 -/
theorem test_mulwf_of_prodl :
    see (start [(addrBsr, 0x0F#8), (addrWreg, 0x05#8), (addrProdl, 0x03#8)] 0x0000 0x03F3 0)
      (fun t => (t.memRead addrProdl, t.memRead addrProdh)) = some (0x0F#8, 0x00#8) := by decide
/-- 2.5.13 -/
theorem test_nop :
    see (start [(addrWreg, 0x12#8)] 0x0010 0x0000 0)
      (fun t => (t.pc, t.memRead addrWreg)) = some (0x0012, 0x12#8) := by decide
/-- 2.5.13 -/
theorem test_nopF :
    see (start [(addrWreg, 0x12#8)] 0x0010 0xF123 0)
      (fun t => (t.pc, t.memRead addrWreg)) = some (0x0012, 0x12#8) := by decide
/-- 2.6.1 -/
theorem test_incfsz_no_skip :
    see (start [(0x0030#16, 0x7F#8)] 0x0000 0x3C30 0)
      (fun t => (t.memRead addrWreg, t.memRead 0x0030#16, t.pc, t.memRead addrStatus)) = some (0x80#8, 0x7F#8, 0x0002, 0x00#8) := by
  decide
/-- R135's example -/
theorem test_incfsz_skip :
    see (start [(0x0030#16, 0xFF#8)] 0x0100 0x3E30 0)
      (fun t => (t.memRead 0x0030#16, t.pc, t.memRead addrStatus)) = some (0x00#8, 0x0104, 0x00#8) := by decide
/-- 2.6.3 -/
theorem test_decfsz_no_skip :
    see (start [] 0x0000 0x2C30 0)
      (fun t => (t.memRead addrWreg, t.memRead 0x0030#16, t.pc)) = some (0xFF#8, 0x00#8, 0x0002) := by decide
/-- R136's example -/
theorem test_decfsz_skip :
    see (start [(0x0030#16, 0x01#8)] 0x0100 0x2E30 0)
      (fun t => (t.memRead 0x0030#16, t.pc)) = some (0x00#8, 0x0104) := by decide
/-- 2.6.4 -/
theorem test_infsnz_skip :
    see (start [] 0x0000 0x4830 0)
      (fun t => (t.memRead addrWreg, t.pc)) = some (0x01#8, 0x0004) := by decide
/-- R137's example -/
theorem test_infsnz_no_skip :
    see (start [(0x0030#16, 0xFF#8)] 0x0100 0x4A30 0)
      (fun t => (t.memRead 0x0030#16, t.pc)) = some (0x00#8, 0x0102) := by decide
/-- 2.6.5 -/
theorem test_dcfsnz_no_skip :
    see (start [(0x0030#16, 0x01#8)] 0x0000 0x4C30 0)
      (fun t => (t.memRead addrWreg, t.pc)) = some (0x00#8, 0x0002) := by decide
/-- 2.6.6 -/
theorem test_dcfsnz_skip :
    see (start [] 0x0000 0x4C30 0)
      (fun t => (t.memRead addrWreg, t.pc)) = some (0xFF#8, 0x0004) := by decide
/-- 2.6.8 -/
theorem test_cpfseq_banked :
    see (start [(addrWreg, 0x42#8), (addrBsr, 0x01#8), (0x0120#16, 0x42#8)] 0x0000 0x6320 0)
      (fun t => (t.pc)) = some (0x0004) := by decide
/-- S5a -/
theorem test_cpfsgt_skip :
    see (start [(addrWreg, 0x01#8)] 0x0100 0x6420 0)
      (fun t => (t.pc)) = some (0x0104) := by decide
/-- S5b -/
theorem test_cpfsgt_equal :
    see (start [] 0x0100 0x6420 0)
      (fun t => (t.pc)) = some (0x0102) := by decide
/-- 2.6.10 -/
theorem test_cpfslt_unsigned :
    see (start [(addrWreg, 0x7F#8), (0x0020#16, 0x80#8)] 0x0000 0x6020 0)
      (fun t => (t.pc)) = some (0x0004) := by decide
/-- 2.6.11 -/
theorem test_cpfslt_no_skip :
    see (start [(addrWreg, 0x80#8), (0x0020#16, 0x7F#8)] 0x0000 0x6020 0)
      (fun t => (t.pc)) = some (0x0002) := by decide

/-! ### Program counter and fetch (2.8) -/

/-- 2.8.2: an odd PC fetches the containing word. -/
theorem test_odd_pc : see (start [] 1 0x0F01 0) (fun t => (t.w, t.pc)) = some (0x01#8, 3) := by decide
/-- 2.8.4: a MOVFF across the end of program memory. -/
theorem test_movff_wraps :
    see (small [(0x0010#16, 0x5A#8)] 0x0E 0xC010 0xF011) (fun t => (t.memRead 0x0011#16, t.pc)) = some (0x5A#8, 2) := by
  decide
/-- 2.8.5: a skip across the end of program memory. -/
theorem test_skip_wraps : see (small [(addrWreg, 0x01#8)] 0x0C 0x6420 0) (fun t => t.pc) = some 0 := by decide
/-- 2.8.1: PCAdvance at the last address. -/
theorem test_pcAdvance_wraps :
    [3, -16, 0].map (fun d => ({ State.powerOn ⟨3⟩ with pc := 15 }.pcAdvance d).pc) = [2, 15, 15] := by decide

/-! ### Faults -/

/-- 2.5.6: both operands reserved, the source is reported. -/
theorem test_movff_reports_source :
    see (start [] 0 0xCFFF 0xFFF9) (fun t => (t.halted, t.pc)) =
      some (some ⟨.invalidOperand .source 0xFFF#12, 0⟩, 0) := by decide
/-- 3.4: the destination is reserved; nothing is written and the PC stays. -/
theorem test_movff_reports_destination :
    see (start [] 2 0xC010 0xFFF9) (fun t => (t.halted, t.pc, t.dm)) =
      some (some ⟨.invalidOperand .destination 0xFF9#12, 2⟩, 2, []) := by decide
/-- 2.5.7: the second word is checked before the reserved source. -/
theorem test_movff_word2_first :
    see (start [] 0 0xCFFF 0x0000) (fun t => t.halted) = some (some ⟨.movffWord2 0x0000#16, 0⟩) := by decide
/-- 3.5: a word outside the subset. -/
theorem test_unsupported :
    see (start [] 0 0x0E05 0) (fun t => (t.halted, t.pc)) = some (some ⟨.unsupported 0x0E05#16, 0⟩, 0) := by decide
/-- 2.8.6: a halted step reports the same record. -/
theorem test_halted_step_reports :
    (hostStep (State.reset.raise (.unsupported 0x0E05#16))).2 = .stepped (some ⟨.unsupported 0x0E05#16, 0⟩) := by decide

/-! ### Host operations (2.7, 2.11) -/

/-- 2.7.3: the value, STKPTR and trace of two pushes and a pop. -/
theorem test_push_push_pop :
    let r := hostRun [.push 0x10, .push 0x20, .pop, .traceRead, .traceRead, .traceRead, .traceRead] State.reset
    (r.1.stkptr, r.2) = (0x01#8, [.done, .done, .popped (some 0x20), .event (some (.push 0x10)),
      .event (some (.push 0x20)), .event (some (.pop 0x20)), .event none]) := by decide
/-- R100's example: the last free slot, then the overflow. -/
theorem test_push_last_slot_and_overflow :
    let r := hostRun [.dmWrite 0xFFC 0x1E, .push 0x100, .dmRead 0xFFC, .push 0x100, .dmRead 0xFFC] State.reset
    (r.1.stack[30], r.2) = (.holds 0x100, [.done, .done, .byte 0x1F#8, .done, .byte 0x9F#8]) := by decide
/-- R101's example: a pop from an empty stack with STKUNF already set. -/
theorem test_pop_empty :
    (hostRun [.dmWrite 0xFFC 0x40, .pop, .dmRead 0xFFC, .traceRead] State.reset).2 =
      [.done, .popped none, .byte 0x40#8, .event (some .stackUnderflow)] := by decide
/-- 2.7.7: sticky bits do not block. -/
theorem test_push_with_sticky_bits :
    let s := (hostRun [.dmWrite 0xFFC 0xC3, .push 0x40] State.reset).1
    (s.stkptr, s.stack[3]) = (0xC4#8, .holds 0x40) := by decide
/-- 2.7.4: at a full trace the oldest event is dropped. -/
theorem test_trace_drops_oldest :
    let s := { State.reset with tw := 127 }.push 2
    (s.tw, s.tr) = (0, 1) := by decide
/-- 2.7.5 and 2.11: the refusals. -/
theorem test_refusals :
    (hostRun [.push 0x10000, .dmWrite 0x10000 0, .dmWrite 0x20 0x100, .pmWrite 0x10000 0, .pmWrite 0 0x10000,
      .pmReadHost 0x10000, .dmRead (-1)] State.reset).2 =
      [.refused (.pushRange 0x10000), .refused (.dmRange .address 0x10000), .refused (.dmRange .value 0x100),
        .refused (.pmRange .address 0x10000), .refused (.pmRange .value 0x10000),
        .refused (.pmRange .address 0x10000), .refused (.dmRange .address (-1))] := by decide
/-- 2.11: an odd address writes the containing word. -/
theorem test_pmWrite_odd :
    (hostRun [.pmWrite 3 0x0F01, .pmReadHost 2, .pmReadHost 0] State.reset).2 =
      [.done, .word 0x0F01#16, .word 0x0000#16] := by decide
/-- R159: Reset keeps program memory and clears the rest. -/
theorem test_reset_keeps_program :
    let s := (hostRun [.pmWrite 0 0x0F01, .dmWrite 0x20 7, .push 4, .step, .reset] State.reset).1
    (s.pmRead 0, s.dm, s.pc, s.stack[0], s.tw) = (0x0F01#16, [], 0, .unwritten, 0) := by decide

/-! ### Witnesses: for each statement with hypotheses, an input that meets them all, at the edges of each clause -/

theorem witness_EncodeOfDecodeIsTheWords : decode 0xC010#16 0xFFE0#16 = .ok (.movff 0x010#12 0xFE0#12) := by rfl

theorem witness_DecodeAgreesWithTheOpcodeMap :
    decode 0x2420#16 0#16 = .ok (.addwf 0x20#8 .w .direct) ∧
    (∃ r ∈ opcodeMap, r.selects 0xC010#16 ∧ r.mnemonic = "MOVFF" ∧ (0xE000#16 : Word).extractLsb' 12 4 ≠ 0xF#4) ∧
    (∃ r ∈ opcodeMap, r.selects 0xF000#16 ∧ r.mnemonic = "NOP") := ⟨rfl, by decide, by decide⟩

theorem witness_UnsupportedWordLatchesAndWritesNothing :
    (start [] 0 0x0E05 0).halted = none ∧ (∀ r ∈ opcodeMap, ¬ r.selects (start [] 0 0x0E05 0).fetch1) ∧
    HostOp.pcRead ≠ .step ∧
    (hostExec .pcRead (State.reset.raise (.unsupported 1#16))).1.halted = some ⟨.unsupported 1#16, 0⟩ := by decide

theorem witness_MovffSecondWordIsChecked :
    (let s := start [] 0 0xC010 0xEFFF
     s.halted = none ∧ s.fetch1.extractLsb' 12 4 = 0xC#4 ∧ s.fetch2.extractLsb' 12 4 ≠ 0xF#4) ∧
    (let s := start [] 0 0xF042 0
     s.halted = none ∧ s.fetch1.extractLsb' 12 4 = 0xF#4) := by decide

theorem witness_StatusUpdateWritesOnlyMaskedBits : (7 : Nat) < 8 ∧ addrWreg ≠ addrStatus ∧ (0#8 : Byte) = 0#8 := by decide

theorem witness_HostDataAccess :
    (hostRun [.dmRead 0, .dmRead 65535, .dmRead 65536, .dmRead (-1), .dmWrite 65535 255, .dmWrite 65535 256,
      .dmWrite 65536 0, .dmWrite 0 (-1)] State.reset).2 =
      [.byte 0#8, .byte 0#8, .refused (.dmRange .address 65536), .refused (.dmRange .address (-1)), .done,
        .refused (.dmRange .value 256), .refused (.dmRange .address 65536), .refused (.dmRange .value (-1))] := by decide

theorem witness_HostProgramMemoryAccess :
    (hostRun [.pmReadHost 0, .pmReadHost 15, .pmReadHost 16, .pmWrite 15 65535, .pmWrite 15 65536, .pmWrite 16 0,
      .pmWrite (-1) 0] (State.powerOn ⟨3⟩)).2 =
      [.word 0#16, .word 0#16, .refused (.pmRange .address 16), .done, .refused (.pmRange .value 65536),
        .refused (.pmRange .address 16), .refused (.pmRange .address (-1))] := by decide

theorem witness_StoredWordIsFetchedByTheNextStep :
    State.reset.pc < State.reset.cfg.pmemBytes ∧ State.reset.halted = none ∧
    decode 0x0F01#16 (hostExec (.pmWrite State.reset.pc (0x0F01#16).toNat) State.reset).1.fetch2 = .ok (.addlw 0x01#8) :=
  ⟨by decide, rfl, rfl⟩

theorem witness_CanonicalMemoriesEqualByReads :
    Memory.wf 4 ([(0, 1#8), (3, 255#8)] : Memory 8) = true ∧ Memory.wf 4 ([(3, 1#8), (0, 1#8)] : Memory 8) = false ∧
    Memory.wf 4 ([(4, 1#8)] : Memory 8) = false ∧ Memory.wf 4 ([(3, 0#8)] : Memory 8) = false := by decide

theorem witness_StepRunsTheDecodedInstruction :
    let s := start [] 0 0x2420 0
    s.pc < s.cfg.pmemBytes ∧ s.halted = none ∧
    decode (Memory.read s.pm (s.pc / 2)) (Memory.read s.pm ((s.pc + 2) % s.cfg.pmemBytes / 2)) =
      .ok (.addwf 0x20#8 .w .direct) := ⟨by decide, rfl, rfl⟩

theorem witness_CompletedInstructionAdvancesByItsWidth :
    ∃ t, exec (.cpfseq 0x20#8 .direct) State.reset = .next t ∧ t.halted = none ∧ t.pc = 4 := ⟨_, rfl, by decide, by decide⟩

theorem witness_HaltedBlockStaysHaltedUntilReset :
    (State.reset.raise (.movffWord2 0#16)).halted = some ⟨.movffWord2 0#16, 0⟩ ∧ HostOp.pop ≠ .reset ∧ HostOp.pop ≠ .step := by
  decide

/-- A program in memory, a written stack slot, a recorded event and a data cell: the invariant holds and a step answers. -/
theorem witness_StepKeepsTheStateInvariant :
    ((start [(addrWreg, 0x70#8)] 2 0x0F01 0).push 6).WF ∧
    ∃ t, step ((start [(addrWreg, 0x70#8)] 2 0x0F01 0).push 6) = .next t := by
  refine ⟨⟨by decide, by decide, by decide, by decide, by decide, fun r hr => ?_⟩, ⟨_, rfl⟩⟩
  have h : ((start [(addrWreg, 0x70#8)] 2 0x0F01 0).push 6).halted = none := by decide
  rw [h] at hr
  cases hr

theorem witness_HostSchedulesKeepTheStateInvariant : ((start [(addrWreg, 0x70#8)] 2 0x0F01 0).push 6).WF :=
  witness_StepKeepsTheStateInvariant.1

theorem witness_StepFaultsArePrecise :
    let s := start [] 2 0xC010 0xFFF9
    s.halted = none ∧ ∃ t, step s = .next t ∧ t.halted = some ⟨.invalidOperand .destination 0xFF9#12, 2⟩ :=
  ⟨by decide, _, rfl, by decide⟩

theorem witness_FaultPriority :
    (State.reset.raise (.movffWord2 0#16)).halted = some ⟨.movffWord2 0#16, 0⟩ ∧
    (let s := start [] 0 0xCFFF 0xEFFF
     s.halted = none ∧ s.fetch1.extractLsb' 12 4 = 0xC#4 ∧ s.fetch2.extractLsb' 12 4 ≠ 0xF#4) ∧
    (let s := start [] 0 0xCFFF 0xFFF9
     s.fetch1.extractLsb' 12 4 = 0xC#4 ∧ s.fetch2.extractLsb' 12 4 = 0xF#4 ∧ s.fetch1.extractLsb' 0 12 ∈ movffReserved) ∧
    (let s := start [] 0 0xCFF8 0xFFF9
     s.fetch1.extractLsb' 12 4 = 0xC#4 ∧ s.fetch2.extractLsb' 12 4 = 0xF#4 ∧ s.fetch1.extractLsb' 0 12 ∉ movffReserved ∧
      s.fetch2.extractLsb' 0 12 ∈ movffReserved) ∧
    (start [] 0 0xD000 0).fetch1.extractLsb' 12 4 ≠ 0xC#4 ∧
    ∀ i, decode (start [] 0 0xD000 0).fetch1 (start [] 0 0xD000 0).fetch2 ≠ .ok i := by
  refine ⟨by decide, by decide, by decide, by decide, by decide, fun i h => ?_⟩
  cases (show decode (start [] 0 0xD000 0).fetch1 (start [] 0 0xD000 0).fetch2 = .error (.unsupported 0xD000#16) from rfl).symm.trans h

theorem witness_StepsLeaveProgramStackAndTraceAlone : ∃ t, step (start [] 0 0x6E10 0) = .next t := ⟨_, rfl⟩

theorem witness_OnlyPushAndPopRecordEvents :
    (HostOp.traceRead ≠ .reset ∧ HostOp.traceRead ≠ .pop ∧ HostOp.pcRead ≠ .traceRead) ∧ (∀ a, HostOp.pcRead ≠ .push a) ∧
    ¬(0 ≤ (65536 : Int) ∧ (65536 : Int) < State.reset.cfg.pmemBytes) ∧ 65535 < State.reset.cfg.pmemBytes ∧
    (hostExec .pop State.reset).2 = .popped none ∧ (hostExec .pop (State.reset.push 8)).2 = .popped (some 8) :=
  ⟨by decide, (fun _ h => by cases h), by decide, by decide, by decide, by decide⟩

theorem witness_StepsKeepThePcEven :
    (start [] 0xFFFE 0x0F01 0).pc % 2 = 0 ∧ ∃ t, step (start [] 0xFFFE 0x0F01 0) = .next t := ⟨by decide, _, rfl⟩

theorem witness_SkipPassesAWholeMovff :
    let s := (start [(addrWreg, 1#8)] 0 0x6420 0xC041).pmWrite 4 0xF042#16
    s.halted = none ∧ decode s.fetch1 s.fetch2 = .ok (.cpfsgt 0x20#8 .direct) ∧ (Instr.cpfsgt 0x20#8 .direct).width = 2 ∧
    (∃ t, s.StepsOk t ∧ t.pc = (s.pc + 4) % s.cfg.pmemBytes) ∧ (s.pmRead (s.pc + 2)).extractLsb' 12 4 = 0xC#4 ∧
    (s.pmRead (s.pc + 4)).extractLsb' 12 4 = 0xF#4 :=
  ⟨by decide, rfl, rfl, ⟨_, ⟨rfl, by decide⟩, by decide⟩, by decide, by decide⟩

theorem witness_ClrfResultFlagAndFrame :
    effAddr 0xD8#8 .banked (start [(addrBsr, 0x0F#8)] 0 0 0) = addrStatus := by decide

theorem witness_MovfResultAndFrame : Dest.file = .file := rfl

theorem witness_MovffResultFaultsAndFrame :
    (0xFFF#12 : MovffAddr) ∈ movffReserved ∧ (0xFF8#12 : MovffAddr) ∉ movffReserved ∧ (0xFF9#12 : MovffAddr) ∈ movffReserved ∧
    (0xFFC#12 : MovffAddr) ∉ movffReserved ∧ (0xCFFF#16 : Word).extractLsb' 12 4 = 0xC#4 ∧
    (0xEFFF#16 : Word).extractLsb' 12 4 ≠ 0xF#4 := by decide

theorem witness_PushWritesASlotOrSaturates :
    ¬(0 ≤ (65536 : Int) ∧ (65536 : Int) < State.reset.cfg.pmemBytes) ∧
    ¬(0 ≤ (-1 : Int) ∧ (-1 : Int) < State.reset.cfg.pmemBytes) ∧ 65535 < State.reset.cfg.pmemBytes ∧
    (State.reset.memWrite addrStkptr 0x9F#8).sp = 31#5 ∧ (State.reset.memWrite addrStkptr 0x1E#8).sp ≠ 31#5 ∧
    State.reset.sp ≠ 31#5 := by decide

theorem witness_PopReadsASlotOrUnderflows :
    State.reset.sp = 0#5 ∧ (State.reset.push 8).sp ≠ 0#5 ∧
    (State.reset.push 8).stack[((State.reset.push 8).sp - 1#5).toNat]? = some (.holds 8) ∧
    (State.reset.memWrite addrStkptr 0x1F#8).sp ≠ 0#5 := by decide

theorem witness_PopOfAnUnwrittenSlotStaysInRange :
    let s := State.reset.memWrite addrStkptr 0x05#8
    s.sp ≠ 0#5 ∧ s.stack[(s.sp - 1#5).toNat]? = some .unwritten := by decide

theorem witness_StackReturnsThirtyOneAddressesInReverse :
    State.reset.sp = 0#5 ∧ (List.replicate 31 65535).length = 31 ∧
    (∀ a ∈ List.replicate 31 65535, a < State.reset.cfg.pmemBytes) ∧ 0 < State.reset.cfg.pmemBytes := by decide

/-- Both bits set; a NOP and a CLRF elsewhere keep them; the three ways to clear them; a STKPTR that differs in bits 7:5. -/
theorem witness_StickyBitsAreClearedOnlyByDataWritesOrReset :
    let s := start [(addrStkptr, 0xC5#8), (addrBsr, 0x0F#8)] 0 0x6BFC 0
    s.stkptr.getLsbD 6 = true ∧ s.stkptr.getLsbD 7 = true ∧ decode s.fetch1 s.fetch2 = .ok (.clrf 0xFC#8 .banked) ∧
    addrStkptr ∈ resultCells (.clrf 0xFC#8 .banked) s ∧ (hostExec .step s).1.stkptr = 0#8 ∧
    addrStkptr ∉ resultCells (.clrf 0xFC#8 .direct) s ∧ addrStkptr ∉ resultCells .nop s ∧
    (0x3F#8 : Byte).getLsbD 6 = false ∧ (0x3F#8 : Byte).getLsbD 7 = false ∧
    (hostExec .pop s).1.stkptr = 0xC4#8 ∧ (hostExec (.push 8) s).1.stkptr = 0xC6#8 ∧
    (0xE5#8 : Byte).extractLsb' 0 5 = s.sp := ⟨by decide, by decide, rfl, by decide, by decide, by decide, by decide,
      by decide, by decide, by decide, by decide, by decide⟩

theorem witness_TraceRingIsABoundedLossyQueue :
    { State.reset with tw := 127 }.unread.length = 127 ∧ State.reset.unread = [] ∧
    (State.reset.push 8).unread = [.push 8] :=
  ⟨by rw [State.unread, List.length_map, List.length_range]; decide, by decide, by decide⟩

theorem witness_PcAdvanceIsModular :
    { State.powerOn ⟨3⟩ with pc := 15 }.pc + 1 = { State.powerOn ⟨3⟩ with pc := 15 }.cfg.pmemBytes := by decide

end Sys2Proof.Tests
end

section
/-! What a step can do, said once: it raises a fault, or it stores Bytes to data memory and advances the PC. The frame of a
step over everything else (spec 00_scope.md R5) is read off from it. -/

namespace Sys2Proof.Machine

/-- A sequence of MemWrites (R43), the first of the list done first. -/
def State.memWrites (s : State) (cells : List (DataAddr × Byte)) : State :=
  cells.foldl (fun u c => u.memWrite c.1 c.2) s

/-- Data writes leave everything outside data memory alone. -/
theorem sameOutside_memWrites (s t : State) (cells : List (DataAddr × Byte)) (h : s.SameOutsideDataAndPc t) :
    s.SameOutsideDataAndPc (t.memWrites cells) := by
  induction cells generalizing t with
  | nil => exact h
  | cons c cells ih => exact ih _ (sameOutside_memWrite s t c.1 c.2 h)

/-- An instruction raises a fault and does nothing else, or makes some data writes and then advances the PC. -/
theorem exec_eq_raise_or_memWrites (i : Instr) (s : State) :
    (∃ k, exec i s = .next (s.raise k)) ∨ ∃ cells n, exec i s = .next ((s.memWrites cells).pcAdvance n) := by
  cases i with
  | movff fs fd =>
    by_cases hs : isMovffReserved fs = true
    · exact .inl ⟨.invalidOperand .source fs, by simp [exec, execMovff, hs]⟩
    by_cases hd : isMovffReserved fd = true
    · exact .inl ⟨.invalidOperand .destination fd, by simp [exec, execMovff, hs, hd]⟩
    · exact .inr ⟨[(movffAddr fd, s.memRead (movffAddr fs))], 4, by
        simp [exec, execMovff, hs, hd, finish, State.memWrites]⟩
  | nop | nopF _ | cpfseq _ _ | cpfsgt _ _ | cpfslt _ _ => exact .inr ⟨[], _, rfl⟩
  | movf _ _ _ | movwf _ _ | incfsz _ _ _ | decfsz _ _ _ | infsnz _ _ _ | dcfsnz _ _ _ => exact .inr ⟨[(_, _)], _, rfl⟩
  | _ => exact .inr ⟨[(_, _), (_, _)], _, rfl⟩

/-- A step that answers a next state raised a fault and did nothing else, or made some data writes and then advanced the PC
(R114, R144). -/
theorem eq_raise_or_memWrites_of_step {s t : State} (h : step s = .next t) :
    (∃ k, t = s.raise k) ∨ ∃ cells n, t = (s.memWrites cells).pcAdvance n := by
  cases hh : s.halted with
  | some r => simp [step_of_halted hh] at h
  | none =>
    cases hd : decode s.fetch1 s.fetch2 with
    | error e =>
      rw [step_of_decode_error hh hd] at h
      cases h
      exact .inl ⟨_, rfl⟩
    | ok i =>
      rw [step_of_decode hh hd] at h
      obtain ⟨k, hk⟩ | ⟨cells, n, hn⟩ := exec_eq_raise_or_memWrites i s
      · cases hk.symm.trans h
        exact .inl ⟨k, rfl⟩
      · cases hn.symm.trans h
        exact .inr ⟨cells, n, rfl⟩

/-- Settles O27: a fault sets the latch alone, and data writes and the PC advance keep what lies outside them. -/
theorem stepsLeaveProgramStackAndTraceAlone : Obligations.StepsLeaveProgramStackAndTraceAlone := by
  intro s t h
  obtain ⟨k, rfl⟩ | ⟨cells, n, rfl⟩ := eq_raise_or_memWrites_of_step h
  · exact ⟨rfl, rfl, rfl, rfl, rfl, rfl, rfl⟩
  · have same := sameOutside_pcAdvance s _ n (sameOutside_memWrites s s cells (sameOutside_refl s))
    exact ⟨same.cfg, same.pm, same.stack, same.trace, same.tw, same.tr, same.resetCount⟩

end Sys2Proof.Machine
end

section
/-! The state invariant `State.WF` is kept by every operation of the state, so by the step and by every host operation
(spec 00_scope.md R10), so by every schedule of them (20_memory.md R56). -/

namespace Sys2Proof.Machine

namespace State

/-! ### The operations of the state -/

theorem WF.memWrite {s : State} (h : s.WF) (ea : DataAddr) (v : Byte) : (s.memWrite ea v).WF :=
  { h with dm := s.memWrite_dm_wf ea v h.dm }

theorem WF.memWrites {s : State} (h : s.WF) (cells : List (DataAddr × Byte)) : (s.memWrites cells).WF := by
  induction cells generalizing s with
  | nil => exact h
  | cons c cells ih => exact ih (h.memWrite c.1 c.2)

theorem WF.pmWrite {s : State} (h : s.WF) (addr : Nat) (v : Word) : (s.pmWrite addr v).WF :=
  { h with pm := s.pmWrite_pm_wf addr v h.pm }

theorem WF.pcAdvance {s : State} (h : s.WF) (delta : Int) : (s.pcAdvance delta).WF :=
  { h with pc := s.pcAdvance_pc_lt delta }

/-- The record of a raised fault holds the PC, which is in range. -/
theorem WF.raise {s : State} (h : s.WF) (k : StepFault) : (s.raise k).WF :=
  { h with
    halted := fun r hr => by
      cases hr
      exact h.pc }

theorem WF.doReset {s : State} (h : s.WF) : s.doReset.WF where
  dm := Memory.wf_nil 65536
  pm := h.pm
  pc := pmemBytes_pos s.cfg
  stack i := by simp [StackSlot.inRange]
  trace i := by simp [TraceEvent.inRange]
  halted _ hr := nomatch hr

theorem WF.traceRecord {s : State} (h : s.WF) {e : TraceEvent} (he : e.inRange s.cfg.pmemBytes = true) :
    (s.traceRecord e).WF :=
  { h with
    trace := fun i => by
      simp only [traceRecord_trace, traceRecord_cfg, Vector.getElem_set]
      split
      · exact he
      · exact h.trace i }

/-- TraceRead moves a cursor at most, and the invariant says nothing of the cursors. -/
theorem WF.traceRead {s : State} (h : s.WF) : s.traceRead.1.WF := by
  unfold State.traceRead
  split
  · exact h
  · exact { h with }

/-- Storing an address in range in a call-stack slot (R100). -/
theorem WF.setSlot {s : State} (h : s.WF) (n : Nat) {addr : Nat} (ha : addr < s.cfg.pmemBytes) :
    { s with stack := s.stack.setIfInBounds n (.holds addr) }.WF :=
  { h with
    stack := fun i => by
      simp only [Vector.getElem_setIfInBounds]
      split
      · exact decide_eq_true ha
      · exact h.stack i }

/-- The address Pop reads from a slot lies in program memory, pushed or drawn (R30, R31). -/
theorem WF.stackValue_lt {s : State} (h : s.WF) (n : Nat) : s.stackValue n < s.cfg.pmemBytes := by
  unfold State.stackValue
  split
  next addr hn =>
    obtain ⟨hlt, hget⟩ := Vector.getElem?_eq_some_iff.mp hn
    have hr := h.stack ⟨n, hlt⟩
    rw [hget] at hr
    exact of_decide_eq_true hr
  all_goals exact Nat.mod_lt _ (pmemBytes_pos s.cfg)

theorem WF.push {s : State} (h : s.WF) {addr : Nat} (ha : addr < s.cfg.pmemBytes) : (s.push addr).WF := by
  unfold State.push
  split
  · exact (h.memWrite _ _).traceRecord (decide_eq_true ha)
  · exact ((h.setSlot _ ha).memWrite _ _).traceRecord (decide_eq_true ha)

theorem WF.pop {s : State} (h : s.WF) : s.pop.1.WF := by
  unfold State.pop
  split
  · exact (h.memWrite _ _).traceRecord rfl
  · exact (h.memWrite _ _).traceRecord (decide_eq_true (h.stackValue_lt _))

/-! ### The step and the host operations -/

theorem WF.step {s t : State} (h : s.WF) (hst : step s = .next t) : t.WF := by
  obtain ⟨k, rfl⟩ | ⟨cells, n, rfl⟩ := eq_raise_or_memWrites_of_step hst
  · exact h.raise k
  · exact (h.memWrites cells).pcAdvance n

end State

/-- The host's range check is the half-open interval [0, size). -/
theorem inRange_eq_true_iff (x : Int) (size : Nat) : inRange x size = true ↔ 0 ≤ x ∧ x < size := by
  simp [inRange]

theorem hostPmWrite_wf {s : State} (h : s.WF) (addr value : Int) : (hostPmWrite addr value s).1.WF := by
  unfold hostPmWrite
  split
  · exact h
  split
  · exact h
  · exact h.pmWrite _ _

theorem hostPmRead_state (addr : Int) (s : State) : (hostPmRead addr s).1 = s := by
  unfold hostPmRead
  split <;> rfl

theorem hostDmRead_state (addr : Int) (s : State) : (hostDmRead addr s).1 = s := by
  unfold hostDmRead
  split <;> rfl

theorem hostDmWrite_wf {s : State} (h : s.WF) (addr value : Int) : (hostDmWrite addr value s).1.WF := by
  unfold hostDmWrite
  split
  · exact h
  split
  · exact h
  · exact h.memWrite _ _

/-- A Push that is not refused has its address in range, which the slot and the event it writes need. -/
theorem hostPush_wf {s : State} (h : s.WF) (addr : Int) : (hostPush addr s).1.WF := by
  by_cases hr : inRange addr s.cfg.pmemBytes = true
  · obtain ⟨h0, hlt⟩ := (inRange_eq_true_iff addr s.cfg.pmemBytes).mp hr
    simpa [hostPush, hr] using h.push (addr := addr.toNat) (by omega)
  · simpa [hostPush, hr] using h

theorem hostStep_wf {s : State} (h : s.WF) : (hostStep s).1.WF := by
  unfold hostStep
  split
  next hst => exact h.step hst
  · exact h
  · exact h

theorem hostExec_wf {s : State} (h : s.WF) (op : HostOp) : (hostExec op s).1.WF := by
  cases op with
  | reset => exact h.doReset
  | pmWrite addr value => exact hostPmWrite_wf h addr value
  | pmReadHost addr => exact (hostPmRead_state addr s).symm ▸ h
  | dmRead addr => exact (hostDmRead_state addr s).symm ▸ h
  | dmWrite addr value => exact hostDmWrite_wf h addr value
  | pcRead => exact h
  | pcAdvance delta => exact h.pcAdvance delta
  | push addr => exact hostPush_wf h addr
  | pop => exact h.pop
  | traceRead => exact h.traceRead
  | step => exact hostStep_wf h

/-- The state after a schedule is the state after its rest, from the state its first operation leaves. -/
theorem hostRun_cons_state (op : HostOp) (ops : List HostOp) (s : State) :
    (hostRun (op :: ops) s).1 = (hostRun ops (hostExec op s).1).1 := rfl

/-- Settles O24, by induction on the schedule: every single operation keeps the invariant. -/
theorem hostSchedulesKeepTheStateInvariant : Obligations.HostSchedulesKeepTheStateInvariant := by
  intro ops
  induction ops with
  | nil => exact fun _ h => h
  | cons op ops ih =>
    intro s h
    rw [hostRun_cons_state]
    exact ih _ (hostExec_wf h op)

end Sys2Proof.Machine
end

section
/-! The state invariant holds after power-on and is kept by the step (spec 10_state.md, 70_reset_and_hazards.md R160), and a
Pop keeps within program memory even where it reads a slot never written (R31). -/

namespace Sys2Proof.Machine

/-- Settles O22: a step raises a fault, or makes data writes and advances the PC, and each of these keeps the invariant. -/
theorem stepKeepsTheStateInvariant : Obligations.StepKeepsTheStateInvariant := fun _ _ h hst => h.step hst

/-- Both memories are empty, no slot holds an address, no event carries one and the latch is clear. -/
theorem State.powerOn_wf (cfg : Config) : (State.powerOn cfg).WF where
  dm := Memory.wf_nil 65536
  pm := Memory.wf_nil cfg.pmemWords
  pc := State.pmemBytes_pos cfg
  stack i := by simp [State.powerOn, StackSlot.inRange]
  trace i := by simp [State.powerOn, TraceEvent.inRange]
  halted _ hr := nomatch hr

/-- Settles O23: the model's reset state is a power-on state. -/
theorem resetStateMeetsTheInvariant : Obligations.ResetStateMeetsTheInvariant :=
  ⟨State.powerOn_wf Config.testVectors, State.powerOn_wf⟩

/-- A Pop on a stack that is not empty answers the address of the slot below SP (R101). -/
theorem hostExec_pop_answer_of_ne {s : State} (h : s.sp ≠ 0#5) :
    (hostExec .pop s).2 = .popped (some (s.stackValue (s.sp - 1#5).toNat)) := by
  simp [hostExec, State.pop, h]

/-- Settles O55: the answer is the slot's draw, which is reduced modulo PMEM_BYTES. -/
theorem popOfAnUnwrittenSlotStaysInRange : Obligations.PopOfAnUnwrittenSlotStaysInRange :=
  fun s hsp hslot => ⟨_, hostExec_pop_answer_of_ne hsp, s.stackValue_unwritten_lt hslot⟩

end Sys2Proof.Machine
end

section
/-! Canonical memories are extensional: what a memory reads as determines its list (spec 10_state.md R16, R29). -/

namespace Sys2Proof.Machine.Memory

variable {w : Nat}

theorem wfFrom_cons_iff {hi lo b : Nat} {x : BitVec w} {m : Memory w} :
    wfFrom hi lo ((b, x) :: m) = true ↔ lo ≤ b ∧ b < hi ∧ x ≠ 0#w ∧ wfFrom hi (b + 1) m = true := by
  simp [wfFrom, and_assoc]

theorem read_cons_same (m : Memory w) (b : Nat) (x : BitVec w) : read ((b, x) :: m) b = x := by
  simp [read]

theorem read_cons_other (m : Memory w) {a b : Nat} (x : BitVec w) (h : a ≠ b) : read ((b, x) :: m) a = read m a := by
  simp [read, h.symm]

/-- A canonical memory lists no address below its bound. -/
theorem read_eq_zero_of_lt {hi lo a : Nat} {m : Memory w} (h : wfFrom hi lo m = true) (ha : a < lo) : m.read a = 0#w := by
  induction m generalizing lo with
  | nil => rfl
  | cons p m ih =>
    obtain ⟨b, x⟩ := p
    obtain ⟨hlo, -, -, hm⟩ := wfFrom_cons_iff.mp h
    rw [read_cons_other m x (by omega)]
    exact ih hm (by omega)

/-- An address a canonical memory lists first does not read as 0, so a canonical memory that reads alike does not begin above
it. -/
theorem head_le_of_read_eq {hi lo lo' b c : Nat} {x y : BitVec w} {m m' : Memory w}
    (h : wfFrom hi lo ((b, x) :: m) = true) (h' : wfFrom hi lo' ((c, y) :: m') = true)
    (hr : ∀ a, read ((b, x) :: m) a = read ((c, y) :: m') a) : c ≤ b := by
  obtain ⟨-, -, hx, -⟩ := wfFrom_cons_iff.mp h
  obtain ⟨-, hc, hy, hm'⟩ := wfFrom_cons_iff.mp h'
  by_contra hlt
  have from_c : wfFrom hi c ((c, y) :: m') = true := wfFrom_cons_iff.mpr ⟨le_refl c, hc, hy, hm'⟩
  have hb := hr b
  rw [read_cons_same, read_eq_zero_of_lt from_c (by omega)] at hb
  exact hx hb

/-- Two canonical memories that read alike begin with the same pair, and their tails read alike: below the first address and
at it both tails read 0, and above it each tail reads what its memory does. -/
theorem eq_of_read_eq {hi lo lo' : Nat} {m m' : Memory w} (h : wfFrom hi lo m = true) (h' : wfFrom hi lo' m' = true)
    (hr : ∀ a, read m a = read m' a) : m = m' := by
  induction m generalizing lo lo' m' with
  | nil =>
    cases m' with
    | nil => rfl
    | cons q m' =>
      obtain ⟨c, y⟩ := q
      obtain ⟨-, -, hy, -⟩ := wfFrom_cons_iff.mp h'
      exact absurd ((read_cons_same m' c y).symm.trans (hr c).symm) hy
  | cons p m ih =>
    obtain ⟨b, x⟩ := p
    obtain ⟨-, -, hx, hm⟩ := wfFrom_cons_iff.mp h
    cases m' with
    | nil => exact absurd ((read_cons_same m b x).symm.trans (hr b)) hx
    | cons q m' =>
      obtain ⟨c, y⟩ := q
      obtain ⟨-, -, -, hm'⟩ := wfFrom_cons_iff.mp h'
      obtain rfl : b = c :=
        le_antisymm (head_le_of_read_eq h' h fun a => (hr a).symm) (head_le_of_read_eq h h' hr)
      have hxy : x = y := by simpa only [read_cons_same] using hr b
      have tails (a : Nat) : read m a = read m' a := by
        by_cases ha : a = b
        · rw [read_eq_zero_of_lt hm (by omega), read_eq_zero_of_lt hm' (by omega)]
        · simpa only [read_cons_other _ _ ha] using hr a
      rw [hxy, ih hm hm' tails]

/-- Settles O18, by induction on the first memory. -/
theorem canonicalMemoriesEqualByReads : Obligations.CanonicalMemoriesEqualByReads :=
  fun _ _ _ _ h h' hr => eq_of_read_eq h h' hr

end Sys2Proof.Machine.Memory
end

section
/-! Noninterference: the step commutes with any change of the stack slots, the trace, its cursors and the draw index, since
no instruction reads one of them (spec 10_state.md R38). -/

namespace Sys2Proof.Machine

/-- The fields no program can observe (R38). -/
structure Unobservable where
  stack : Vector StackSlot stackDepth
  trace : Vector TraceEvent traceCapacity
  tw : Fin traceCapacity
  tr : Fin traceCapacity
  resetCount : Nat

/-- The state with other values in the fields no program can observe. -/
def State.withUnobservable (s : State) (o : Unobservable) : State :=
  { s with stack := o.stack, trace := o.trace, tw := o.tw, tr := o.tr, resetCount := o.resetCount }

/-- An instruction does the same to a state and to one that differs in the unobservable fields alone. Only MOVFF branches,
and on its operands, not on the state. -/
theorem exec_withUnobservable (i : Instr) (s : State) (o : Unobservable) :
    ∃ t, exec i s = .next t ∧ exec i (s.withUnobservable o) = .next (t.withUnobservable o) := by
  cases i with
  | movff fs fd =>
    simp only [exec, execMovff]
    split
    · exact ⟨_, rfl, rfl⟩
    split
    · exact ⟨_, rfl, rfl⟩
    · exact ⟨_, rfl, rfl⟩
  | _ => exact ⟨_, rfl, rfl⟩

/-- Settles O28: the latch and the fetched words are the same in both states, so both take the same branch of the step. -/
theorem stepIgnoresStackAndTrace : Obligations.StepIgnoresStackAndTrace := by
  intro s stack trace tw tr resetCount other
  let o : Unobservable := ⟨stack, trace, tw, tr, resetCount⟩
  cases hh : s.halted with
  | some r =>
    rw [step_of_halted hh]
    exact step_of_halted (s := s.withUnobservable o) hh
  | none =>
    cases hd : decode s.fetch1 s.fetch2 with
    | error e =>
      rw [step_of_decode_error hh hd]
      exact step_of_decode_error (s := s.withUnobservable o) hh hd
    | ok i =>
      obtain ⟨t, ht, hto⟩ := exec_withUnobservable i s o
      rw [step_of_decode hh hd, ht]
      exact (step_of_decode (s := s.withUnobservable o) hh hd).trans hto

end Sys2Proof.Machine
end

section
/-! The trace ring as a queue (spec 10_state.md R33, 41_stack_pc_trace.md R110, R112): the unread events are a slice of the
ring, a record writes the slot just past it, and a read drops its first slot. -/

namespace Sys2Proof.Machine

/-! ### Slots, numbered around the ring -/

theorem val_slot_lt (slot : Fin traceCapacity) : slot.val < 128 := slot.isLt

theorem val_slot_add (start : Fin traceCapacity) (i : Nat) :
    (start + Fin.ofNat traceCapacity i).val = (start.val + i) % 128 := by
  simp [Fin.val_add]

theorem val_slot_succ (slot : Fin traceCapacity) : (slot + 1).val = (slot.val + 1) % 128 := rfl

theorem val_slot_sub (slot start : Fin traceCapacity) : (slot - start).val = (128 - start.val + slot.val) % 128 := rfl

/-- A slot is as far on from a start as their distance around the ring. -/
theorem val_slot_eq_add_sub (slot start : Fin traceCapacity) :
    slot.val = (start.val + (slot - start).val) % 128 := by
  have := val_slot_lt slot
  have := val_slot_lt start
  rw [val_slot_sub]
  omega

/-! ### Slices of the ring -/

/-- The `n` events of the ring from a slot on, wrapping at the capacity (R33). -/
def ringSlice (ring : Vector TraceEvent traceCapacity) (start : Fin traceCapacity) (n : Nat) : List TraceEvent :=
  (List.range n).map fun i => ring[(start + Fin.ofNat traceCapacity i).val]

section
variable (ring : Vector TraceEvent traceCapacity) (start : Fin traceCapacity) (n : Nat)

theorem length_ringSlice : (ringSlice ring start n).length = n := by
  simp [ringSlice]

/-- A slice begins with the event of its first slot. -/
theorem ringSlice_succ : ringSlice ring start (n + 1) = ring[start.val] :: ringSlice ring (start + 1) n := by
  have first : start + Fin.ofNat traceCapacity 0 = start := by simp
  have later (i : Nat) : start + Fin.ofNat traceCapacity (i + 1) = start + 1 + Fin.ofNat traceCapacity i := by
    rw [Fin.ext_iff, val_slot_add, val_slot_add, val_slot_succ]
    omega
  simp only [ringSlice, List.range_succ_eq_map, List.map_cons, List.map_map, Function.comp_def, first, later]

/-- Storing an event in the slot just past a slice appends it to the slice: the slice is short of a full turn, so the slot is
not one of its own. -/
theorem ringSlice_set_end {slot : Fin traceCapacity} (e : TraceEvent) (hn : n < 128)
    (hslot : slot.val = (start.val + n) % 128) :
    ringSlice (ring.set slot.val e) start (n + 1) = ringSlice ring start n ++ [e] := by
  have own : ringSlice (ring.set slot.val e) start n = ringSlice ring start n := by
    refine List.map_congr_left fun i hi => Vector.getElem_set_ne _ _ ?_
    have := List.mem_range.mp hi
    rw [val_slot_add]
    omega
  have last : start + Fin.ofNat traceCapacity n = slot := Fin.ext ((val_slot_add start n).trans hslot.symm)
  calc ringSlice (ring.set slot.val e) start (n + 1)
      = ringSlice (ring.set slot.val e) start n ++ [(ring.set slot.val e)[(start + Fin.ofNat traceCapacity n).val]] := by
        simp only [ringSlice, List.range_succ, List.map_append, List.map_singleton]
    _ = ringSlice ring start n ++ [e] := by simp only [own, last, Vector.getElem_set_self]

end

/-! ### The unread events -/

namespace State

variable (s : State)

theorem unread_eq_ringSlice : s.unread = ringSlice s.trace s.tr (s.tw - s.tr).val := rfl

theorem unread_length : s.unread.length = (s.tw - s.tr).val := length_ringSlice _ _ _

theorem unread_length_le : s.unread.length ≤ 127 := by
  rw [unread_length]
  exact Nat.le_of_lt_succ (val_slot_lt _)

/-- The ring is full when the write cursor is just behind the read cursor. -/
theorem unread_length_eq_127_iff : s.unread.length = 127 ↔ s.tw + 1 = s.tr := by
  have := val_slot_lt s.tw
  have := val_slot_lt s.tr
  rw [unread_length, Fin.ext_iff, val_slot_sub, val_slot_succ]
  omega

/-- The ring is empty when the cursors meet. -/
theorem unread_eq_nil_iff : s.unread = [] ↔ s.tr = s.tw := by
  have := val_slot_lt s.tw
  have := val_slot_lt s.tr
  rw [← List.length_eq_zero_iff, unread_length, Fin.ext_iff, val_slot_sub]
  omega

/-- A ring that is not empty has the event at the read cursor as its oldest, and the rest from the next slot on. -/
theorem unread_of_ne (h : s.tr ≠ s.tw) :
    s.unread = s.trace[s.tr.val] :: ringSlice s.trace (s.tr + 1) (s.tw - (s.tr + 1)).val := by
  have count : (s.tw - s.tr).val = (s.tw - (s.tr + 1)).val + 1 := by
    have := val_slot_lt s.tw
    have := val_slot_lt s.tr
    rw [Ne, Fin.ext_iff] at h
    rw [val_slot_sub, val_slot_sub, val_slot_succ]
    omega
  rw [unread_eq_ringSlice, count, ringSlice_succ]

/-- A record where there is room: the read cursor stays, and the slice grows by the slot at the write cursor. -/
theorem unread_traceRecord_of_room (e : TraceEvent) (h : s.tw + 1 ≠ s.tr) :
    (s.traceRecord e).unread = s.unread ++ [e] := by
  have count : (s.tw + 1 - s.tr).val = (s.tw - s.tr).val + 1 := by
    have := val_slot_lt s.tw
    have := val_slot_lt s.tr
    rw [Ne, Fin.ext_iff, val_slot_succ] at h
    rw [val_slot_sub, val_slot_sub, val_slot_succ]
    omega
  simp only [unread_eq_ringSlice, traceRecord_trace, traceRecord_tr, traceRecord_tw, if_neg h, count]
  exact ringSlice_set_end _ _ _ e (val_slot_lt _) (val_slot_eq_add_sub _ _)

/-- A record on a full ring: the read cursor moves on too, which drops the oldest event, and the rest is a slice that ends
before the write cursor. -/
theorem unread_traceRecord_of_full (e : TraceEvent) (h : s.tw + 1 = s.tr) :
    (s.traceRecord e).unread = s.unread.tail ++ [e] := by
  have count : (s.tw + 1 - (s.tr + 1)).val = (s.tw - (s.tr + 1)).val + 1 := by
    have := val_slot_lt s.tw
    rw [← h, val_slot_sub, val_slot_sub, val_slot_succ, val_slot_succ]
    omega
  have ne : s.tr ≠ s.tw := by
    have := val_slot_lt s.tw
    rw [← h, Ne, Fin.ext_iff, val_slot_succ]
    omega
  rw [unread_of_ne s ne, List.tail_cons]
  simp only [unread_eq_ringSlice, traceRecord_trace, traceRecord_tr, traceRecord_tw, if_pos h, count]
  exact ringSlice_set_end _ _ _ e (val_slot_lt _) (val_slot_eq_add_sub _ _)

/-- TraceRead with the cursors together reports exhaustion and changes nothing (R112). -/
theorem traceRead_of_eq (h : s.tr = s.tw) : s.traceRead = (s, none) := if_pos h

/-- TraceRead with the cursors apart takes the event at the read cursor and moves it on (R112). -/
theorem traceRead_of_ne (h : s.tr ≠ s.tw) :
    s.traceRead = ({ s with tr := s.tr + 1 }, some s.trace[s.tr.val]) := if_neg h

end State

theorem hostExec_traceRead (s : State) : hostExec .traceRead s = (s.traceRead.1, .event s.traceRead.2) := rfl

/-- Settles O58: a record on a ring with room and on a full one, and a read of an empty ring and of one that is not. -/
theorem traceRingIsABoundedLossyQueue : Obligations.TraceRingIsABoundedLossyQueue := by
  refine fun s => ⟨s.unread_length_le, fun e => ?_, fun h => ?_, fun e es h => ?_⟩
  · split
    next full => exact s.unread_traceRecord_of_full e (s.unread_length_eq_127_iff.mp full)
    next room => exact s.unread_traceRecord_of_room e (mt s.unread_length_eq_127_iff.mpr room)
  · rw [hostExec_traceRead, s.traceRead_of_eq (s.unread_eq_nil_iff.mp h)]
  · have ne : s.tr ≠ s.tw := mt s.unread_eq_nil_iff.mpr (h ▸ List.cons_ne_nil e es)
    obtain ⟨he, hes⟩ := List.cons.inj ((s.unread_of_ne ne).symm.trans h)
    rw [hostExec_traceRead, s.traceRead_of_ne ne]
    exact ⟨congrArg (HostAnswer.event ∘ some) he, hes⟩

end Sys2Proof.Machine
end

section
/-! Memory as the machine and the host reach it (spec 20_memory.md): a data write, the effective address, the host's four
memory operations on and off their ranges, and the fetch of a stored word. -/

namespace Sys2Proof.Machine

open State

/-! ### Data memory and its addresses -/

/-- Settles O13: a read after a write, and a write frames everything outside data memory. -/
theorem dataWriteReadsBackAndTouchesNothingElse : Obligations.DataWriteReadsBackAndTouchesNothingElse :=
  fun s ea v => ⟨s.memRead_memWrite_same ea v, fun _ h => s.memRead_memWrite_other v h, rfl,
    sameOutside_memWrite s s ea v (sameOutside_refl s)⟩

theorem effAddr_direct_toNat (f : Byte) (s : State) : (effAddr f .direct s).toNat = f.toNat :=
  BitVec.toNat_setWidth_of_le (by decide)

theorem effAddr_banked_toNat (f : Byte) (s : State) : (effAddr f .banked s).toNat = s.bsr.toNat * 256 + f.toNat := by
  rw [effAddr, BitVec.toNat_append, ← Nat.shiftLeft_add_eq_or_of_lt f.isLt, Nat.shiftLeft_eq]

/-- Settles O14: the address of each access mode, and the bound of a 16-bit address. -/
theorem effectiveAddressFormula : Obligations.EffectiveAddressFormula :=
  fun f s => ⟨effAddr_direct_toNat f s, effAddr_banked_toNat f s, fun a => Nat.le_of_lt_succ (effAddr f a s).isLt,
    fun _ => rfl, fun _ => rfl, fun _ => BitVec.toNat_setWidth_of_le (by decide)⟩

/-! ### The host's operations on their ranges (R48, R51, R52) -/

theorem ofNat_toNat_eq_ofInt (n : Nat) {x : Int} (h : 0 ≤ x) : BitVec.ofNat n x.toNat = BitVec.ofInt n x := by
  rw [← BitVec.ofInt_natCast, Int.toNat_of_nonneg h]

theorem inRange_eq_false_iff (x : Int) (size : Nat) : inRange x size = false ↔ ¬(0 ≤ x ∧ x < size) := by
  rw [← inRange_eq_true_iff, Bool.not_eq_true]

/-- Where an address and a value are not both in range, the checks stop at the address, or pass it and stop at the value. -/
theorem inRange_address_or_value_eq_false {addr v : Int} {size bound : Nat}
    (h : ¬(0 ≤ addr ∧ addr < size ∧ 0 ≤ v ∧ v < bound)) :
    inRange addr size = false ∨ (inRange addr size = true ∧ inRange v bound = false) := by
  simp only [inRange_eq_true_iff, inRange_eq_false_iff]
  tauto

section

variable {s : State} {addr v : Int}

theorem hostExec_dmRead_of_inRange (ha : inRange addr 65536 = true) :
    hostExec (.dmRead addr) s = (s, .byte (s.memRead (BitVec.ofInt 16 addr))) := by
  have h0 := ((inRange_eq_true_iff addr 65536).mp ha).1
  simp [hostExec, hostDmRead, ha, ofNat_toNat_eq_ofInt 16 h0]

theorem hostExec_dmRead_of_not_inRange (ha : inRange addr 65536 = false) :
    hostExec (.dmRead addr) s = (s, .refused (.dmRange .address addr)) := by
  simp [hostExec, hostDmRead, ha]

theorem hostExec_dmWrite_of_inRange (ha : inRange addr 65536 = true) (hv : inRange v 256 = true) :
    hostExec (.dmWrite addr v) s = (s.memWrite (BitVec.ofInt 16 addr) (BitVec.ofInt 8 v), .done) := by
  have ha0 := ((inRange_eq_true_iff addr 65536).mp ha).1
  have hv0 := ((inRange_eq_true_iff v 256).mp hv).1
  simp [hostExec, hostDmWrite, ha, hv, ofNat_toNat_eq_ofInt _ ha0, ofNat_toNat_eq_ofInt _ hv0]

theorem hostExec_dmWrite_of_address_not_inRange (ha : inRange addr 65536 = false) :
    hostExec (.dmWrite addr v) s = (s, .refused (.dmRange .address addr)) := by
  simp [hostExec, hostDmWrite, ha]

theorem hostExec_dmWrite_of_value_not_inRange (ha : inRange addr 65536 = true) (hv : inRange v 256 = false) :
    hostExec (.dmWrite addr v) s = (s, .refused (.dmRange .value v)) := by
  simp [hostExec, hostDmWrite, ha, hv]

theorem hostExec_pmReadHost_of_inRange (ha : inRange addr s.cfg.pmemBytes = true) :
    hostExec (.pmReadHost addr) s = (s, .word (s.pmRead addr.toNat)) := by
  simp [hostExec, hostPmRead, ha]

theorem hostExec_pmReadHost_of_not_inRange (ha : inRange addr s.cfg.pmemBytes = false) :
    hostExec (.pmReadHost addr) s = (s, .refused (.pmRange .address addr)) := by
  simp [hostExec, hostPmRead, ha]

theorem hostExec_pmWrite_of_inRange (ha : inRange addr s.cfg.pmemBytes = true) (hv : inRange v 65536 = true) :
    hostExec (.pmWrite addr v) s = (s.pmWrite addr.toNat (BitVec.ofInt 16 v), .done) := by
  have hv0 := ((inRange_eq_true_iff v 65536).mp hv).1
  simp [hostExec, hostPmWrite, ha, hv, ofNat_toNat_eq_ofInt _ hv0]

theorem hostExec_pmWrite_of_address_not_inRange (ha : inRange addr s.cfg.pmemBytes = false) :
    hostExec (.pmWrite addr v) s = (s, .refused (.pmRange .address addr)) := by
  simp [hostExec, hostPmWrite, ha]

theorem hostExec_pmWrite_of_value_not_inRange (ha : inRange addr s.cfg.pmemBytes = true) (hv : inRange v 65536 = false) :
    hostExec (.pmWrite addr v) s = (s, .refused (.pmRange .value v)) := by
  simp [hostExec, hostPmWrite, ha, hv]

end

/-- Settles O15: DMWrite is refused for its address, or for its value where the address is in range. -/
theorem hostDataAccess : Obligations.HostDataAccess := by
  intro s addr v
  have addrRange := inRange_eq_true_iff addr 65536
  have valueRange := inRange_eq_true_iff v 256
  refine ⟨fun h => hostExec_dmRead_of_inRange (addrRange.mpr h),
    fun h => hostExec_dmRead_of_not_inRange ((inRange_eq_false_iff _ _).mpr h),
    fun ⟨a0, alt, hv⟩ => hostExec_dmWrite_of_inRange (addrRange.mpr ⟨a0, alt⟩) (valueRange.mpr hv), fun h => ?_⟩
  obtain ha | ⟨ha, hv⟩ := inRange_address_or_value_eq_false h
  · exact ⟨.address, addr, hostExec_dmWrite_of_address_not_inRange ha,
      .inl ⟨rfl, rfl, (inRange_eq_false_iff _ _).mp ha⟩⟩
  · exact ⟨.value, v, hostExec_dmWrite_of_value_not_inRange ha hv,
      .inr ⟨rfl, rfl, (inRange_eq_false_iff _ _).mp hv⟩⟩

/-! ### Program memory -/

theorem Memory.read_write {w : Nat} (m : Memory w) (a c : Nat) (v : BitVec w) :
    Memory.read (Memory.write m a v) c = if c = a then v else Memory.read m c := by
  split
  next h => rw [h, Memory.read_write_same]
  next h => exact Memory.read_write_other m v h

/-- The word that holds a byte address in range has half the address as its index (R50). -/
theorem State.pmRead_of_lt (s : State) {addr : Nat} (h : addr < s.cfg.pmemBytes) :
    s.pmRead addr = Memory.read s.pm (addr / 2) := by
  rw [pmRead, Nat.mod_eq_of_lt h]

/-- A program-memory write in range, word by word (R51). -/
theorem State.read_pm_pmWrite_of_lt (s : State) {addr : Nat} (h : addr < s.cfg.pmemBytes) (v : Word) (n : Nat) :
    Memory.read (s.pmWrite addr v).pm n = if n = addr / 2 then v else Memory.read s.pm n := by
  rw [pmWrite_pm, Nat.mod_eq_of_lt h, Memory.read_write]

/-- Settles O16: in range the index of the word is half the address; PMWrite is refused for its address, or for its value where
the address is in range. -/
theorem hostProgramMemoryAccess : Obligations.HostProgramMemoryAccess := by
  intro s addr v
  have addrRange := inRange_eq_true_iff addr s.cfg.pmemBytes
  have valueRange := inRange_eq_true_iff v 65536
  refine ⟨fun h => ?_, fun h => hostExec_pmReadHost_of_not_inRange ((inRange_eq_false_iff _ _).mpr h),
    fun ⟨a0, alt, hv⟩ => ?_, fun h => ?_⟩
  · rw [hostExec_pmReadHost_of_inRange (addrRange.mpr h), s.pmRead_of_lt (by omega)]
  · rw [hostExec_pmWrite_of_inRange (addrRange.mpr ⟨a0, alt⟩) (valueRange.mpr hv)]
    exact ⟨rfl, rfl, s.read_pm_pmWrite_of_lt (by omega) _⟩
  · obtain ha | ⟨ha, hv⟩ := inRange_address_or_value_eq_false h
    · exact ⟨.address, addr, hostExec_pmWrite_of_address_not_inRange ha,
        .inl ⟨rfl, rfl, (inRange_eq_false_iff _ _).mp ha⟩⟩
    · exact ⟨.value, v, hostExec_pmWrite_of_value_not_inRange ha hv,
        .inr ⟨rfl, rfl, (inRange_eq_false_iff _ _).mp hv⟩⟩

/-- PMWrite of a word at the PC is a write of program memory: the PC and the word are in range. -/
theorem hostExec_pmWrite_pc {s : State} (hpc : s.pc < s.cfg.pmemBytes) (v : Word) :
    hostExec (.pmWrite s.pc v.toNat) s = (s.pmWrite s.pc v, .done) := by
  have ha : inRange s.pc s.cfg.pmemBytes = true := (inRange_eq_true_iff _ _).mpr (by omega)
  have hv : inRange v.toNat 65536 = true := (inRange_eq_true_iff _ _).mpr (by have := v.isLt; omega)
  rw [hostExec_pmWrite_of_inRange ha hv]
  simp

/-- Settles O17: the write reaches the word the fetch at the PC reads, and leaves the latch clear. -/
theorem storedWordIsFetchedByTheNextStep : Obligations.StoredWordIsFetchedByTheNextStep := by
  intro s v i hpc hh
  rw [hostExec_pmWrite_pc hpc v]
  exact ⟨s.fetch1_pmWrite_pc v, fun hd => step_of_decode hh (by rwa [s.fetch1_pmWrite_pc v])⟩

end Sys2Proof.Machine
end

section
/-! The decoder and the encoder (spec 30_encoding.md): what the decoder does on each kind of first word, that the two are
inverse to each other, and that the rows of the opcode map are the formats of the encoder. -/

namespace Sys2Proof

/-! ### The decoder on the words that are not one word with operands (R65, R67) -/

theorem decode_zero (w2 : Word) : decode 0x0000#16 w2 = .ok .nop := rfl

theorem ne_zero_of_extractLsb' {w : Word} {op : BitVec 4} (h : w.extractLsb' 12 4 = op) (hop : op ≠ 0#4) :
    w ≠ 0x0000#16 := by
  rintro rfl
  exact hop (h.symm.trans BitVec.extractLsb'_zero)

section

variable {w1 w2 : Word}

theorem decode_of_nopF (h : w1.extractLsb' 12 4 = 0b1111#4) (w2 : Word) :
    decode w1 w2 = .ok (.nopF (w1.extractLsb' 0 12)) := by
  simp [decode, ne_zero_of_extractLsb' h (by decide), h]

theorem decode_of_movff (h1 : w1.extractLsb' 12 4 = 0b1100#4) (h2 : w2.extractLsb' 12 4 = 0b1111#4) :
    decode w1 w2 = .ok (.movff (w1.extractLsb' 0 12) (w2.extractLsb' 0 12)) := by
  simp [decode, ne_zero_of_extractLsb' h1 (by decide), h1, h2]

theorem decode_of_movff_word2 (h1 : w1.extractLsb' 12 4 = 0b1100#4) (h2 : w2.extractLsb' 12 4 ≠ 0b1111#4) :
    decode w1 w2 = .error (.movffWord2 w2) := by
  simp [decode, ne_zero_of_extractLsb' h1 (by decide), h1, h2]

end

/-! ### Decoding an encoding -/

/-- The decoder's three case blocks, as they read the high and the low byte of the first word. -/
def decodeBytes (hi f : Byte) : Option Instr :=
  let a := Access.ofBit (hi.getLsbD 0)
  ((decodeLit hi f).or (decodeByteA (hi.extractLsb' 1 7) f a)).or
    (decodeByteDA (hi.extractLsb' 2 6) f (Dest.ofBit (hi.getLsbD 1)) a)

theorem decodeOneWord_append (hi f : Byte) : decodeOneWord (hi ++ f) = decodeBytes hi f := by
  have low : (hi ++ f).extractLsb' 0 8 = f := BitVec.extractLsb'_append_eq_right
  have op8 : (hi ++ f).extractLsb' 8 8 = hi := BitVec.extractLsb'_append_eq_left
  have op7 : (hi ++ f).extractLsb' 9 7 = hi.extractLsb' 1 7 := BitVec.extractLsb'_append_eq_of_le (by decide)
  have op6 : (hi ++ f).extractLsb' 10 6 = hi.extractLsb' 2 6 := BitVec.extractLsb'_append_eq_of_le (by decide)
  have d : (hi ++ f).getLsbD 9 = hi.getLsbD 1 := BitVec.getLsbD_append
  have a : (hi ++ f).getLsbD 8 = hi.getLsbD 0 := BitVec.getLsbD_append
  rw [decodeOneWord, low, op8, op7, op6, d, a, decodeBytes]

/-- A high byte that begins neither a NOP nor a MOVFF is decoded by the case blocks. -/
theorem decode_append {hi f : Byte} {i : Instr}
    (hhi : hi ≠ 0#8 ∧ hi.extractLsb' 4 4 ≠ 0b1111#4 ∧ hi.extractLsb' 4 4 ≠ 0b1100#4)
    (h : decodeBytes hi f = some i) (w2 : Word) : decode (hi ++ f) w2 = .ok i := by
  obtain ⟨h0, hF, hC⟩ := hhi
  have high : (hi ++ f).extractLsb' 12 4 = hi.extractLsb' 4 4 := BitVec.extractLsb'_append_eq_of_le (by decide)
  have ne : hi ++ f ≠ 0x0000#16 := fun e => h0 <|
    BitVec.extractLsb'_append_eq_left.symm.trans (congrArg (BitVec.extractLsb' 8 8) e)
  unfold decode
  rw [high, if_neg ne, if_neg hF, if_neg hC, decodeOneWord_append, h]

/-- Settles O2: once its d and a bits are known the high byte of a one-word format is a constant, and the low byte is the
operand. -/
theorem decodeOfEncodeIsTheInstruction : Obligations.DecodeOfEncodeIsTheInstruction := by
  intro i next
  cases i with
  | nop => exact decode_zero next
  | nopF x =>
    rw [encode, decode_of_nopF BitVec.extractLsb'_append_eq_left, BitVec.extractLsb'_append_eq_right]
  | movff fs fd =>
    simp only [encode, Option.getD_some]
    rw [decode_of_movff BitVec.extractLsb'_append_eq_left BitVec.extractLsb'_append_eq_left,
      BitVec.extractLsb'_append_eq_right, BitVec.extractLsb'_append_eq_right]
  | addlw k | andlw k | iorlw k => exact decode_append (by decide) rfl next
  | clrf f a | movwf f a | mulwf f a | cpfseq f a | cpfsgt f a | cpfslt f a =>
    cases a <;> exact decode_append (by decide) rfl next
  | addwf f d a | addwfc f d a | incf f d a | decf f d a | andwf f d a | iorwf f d a | comf f d a | movf f d a
  | incfsz f d a | decfsz f d a | infsnz f d a | dcfsnz f d a =>
    cases d <;> cases a <;> exact decode_append (by decide) rfl next

/-! ### Encoding what was decoded -/

theorem Dest.toBit_ofBit (b : BitVec 1) : (Dest.ofBit (b == 1#1)).toBit = b := by revert b; decide

theorem Access.toBit_ofBit (b : BitVec 1) : (Access.ofBit (b == 1#1)).toBit = b := by revert b; decide

theorem encodeLit_fields (w : Word) : encodeLit (w.extractLsb' 8 8) (w.extractLsb' 0 8) = w :=
  (BitVec.extractLsb'_append_extractLsb'_eq_extractLsb' rfl).trans BitVec.extractLsb'_eq_self

theorem encodeByteA_fields (w : Word) :
    encodeByteA (w.extractLsb' 9 7) (w.extractLsb' 0 8) (.ofBit (w.getLsbD 8)) = w := by
  rw [encodeByteA, BitVec.getLsbD_eq_extractLsb', Access.toBit_ofBit,
    BitVec.extractLsb'_append_extractLsb'_eq_extractLsb' (start₂ := 9) rfl]
  exact encodeLit_fields w

theorem encodeByteDA_fields (w : Word) :
    encodeByteDA (w.extractLsb' 10 6) (w.extractLsb' 0 8) (.ofBit (w.getLsbD 9)) (.ofBit (w.getLsbD 8)) = w := by
  rw [encodeByteDA, BitVec.getLsbD_eq_extractLsb' w 9, Dest.toBit_ofBit,
    BitVec.extractLsb'_append_extractLsb'_eq_extractLsb' (start₂ := 10) rfl]
  exact encodeByteA_fields w

/-- A word is its four high bits before its twelve low ones. -/
theorem append_fields_of_extractLsb' {w : Word} {op : BitVec 4} (h : w.extractLsb' 12 4 = op) :
    op ++ w.extractLsb' 0 12 = w := by
  rw [← h]
  exact (BitVec.extractLsb'_append_extractLsb'_eq_extractLsb' rfl).trans BitVec.extractLsb'_eq_self

/-- One line of a case block of the decoder: what it decodes to encodes to the words, if the lines after it do. -/
theorem encode_of_ite {c : Prop} [Decidable c] {x i : Instr} {rest : Option Instr} {words : Word × Option Word}
    (hx : c → encode x = words) (hrest : rest = some i → encode i = words) :
    (if c then some x else rest) = some i → encode i = words := by
  split
  next hc => exact fun h => Option.some.inj h ▸ hx hc
  next => exact hrest

theorem encode_of_decodeLit {op k : Byte} {i : Instr} :
    decodeLit op k = some i → encode i = (encodeLit op k, none) := by
  unfold decodeLit
  iterate 3 refine encode_of_ite (by rintro rfl; rfl) ?_
  exact nofun

theorem encode_of_decodeByteA {op : BitVec 7} {f : Byte} {a : Access} {i : Instr} :
    decodeByteA op f a = some i → encode i = (encodeByteA op f a, none) := by
  unfold decodeByteA
  iterate 6 refine encode_of_ite (by rintro rfl; rfl) ?_
  exact nofun

theorem encode_of_decodeByteDA {op : BitVec 6} {f : Byte} {d : Dest} {a : Access} {i : Instr} :
    decodeByteDA op f d a = some i → encode i = (encodeByteDA op f d a, none) := by
  unfold decodeByteDA
  iterate 12 refine encode_of_ite (by rintro rfl; rfl) ?_
  exact nofun

theorem encode_of_decodeOneWord {w : Word} {i : Instr} (h : decodeOneWord w = some i) : encode i = (w, none) := by
  simp only [decodeOneWord, Option.or_eq_some_iff] at h
  obtain (lit | ⟨-, byteA⟩) | ⟨-, byteDA⟩ := h
  · rw [encode_of_decodeLit lit, encodeLit_fields]
  · rw [encode_of_decodeByteA byteA, encodeByteA_fields]
  · rw [encode_of_decodeByteDA byteDA, encodeByteDA_fields]

/-- A first word that decodes is the first word of the encoding, and where the encoding has a second word it is the second. -/
theorem encode_of_decode {w1 w2 : Word} {i : Instr} (h : decode w1 w2 = .ok i) :
    encode i = (w1, none) ∨ encode i = (w1, some w2) := by
  unfold decode at h
  split at h
  next zero => cases h; exact .inl (by rw [zero]; rfl)
  split at h
  next nopF => cases h; exact .inl (by rw [encode, append_fields_of_extractLsb' nopF])
  split at h
  next movff =>
    split at h
    next word2 =>
      cases h
      exact .inr (by rw [encode, append_fields_of_extractLsb' movff, append_fields_of_extractLsb' word2])
    next => cases h
  split at h
  next oneWord => cases h; exact .inl (encode_of_decodeOneWord oneWord)
  next => cases h

/-! ### The opcode map and the formats -/

/-- A mask of high ones keeps the high field and clears the rest. -/
theorem append_and_mask {n k : Nat} (op : BitVec n) (x : BitVec k) :
    (op ++ x) &&& (BitVec.allOnes n ++ 0#k) = op ++ 0#k := by
  rw [BitVec.and_append, BitVec.and_allOnes, BitVec.and_zero]

theorem encodeByteA_and_mask (op : BitVec 7) (f : Byte) (a : Access) : encodeByteA op f a &&& 0xFE00#16 = op ++ 0#9 := by
  rw [encodeByteA, BitVec.append_assoc]
  exact append_and_mask op _

theorem encodeByteDA_and_mask (op : BitVec 6) (f : Byte) (d : Dest) (a : Access) :
    encodeByteDA op f d a &&& 0xFC00#16 = op ++ 0#10 := by
  rw [encodeByteDA, BitVec.append_assoc, BitVec.append_assoc]
  exact append_and_mask op _

theorem encodeLit_and_mask (op k : Byte) : encodeLit op k &&& 0xFF00#16 = op ++ 0#8 := append_and_mask op k

theorem fourBits_and_mask (op : BitVec 4) (x : BitVec 12) : (op ++ x) &&& 0xF000#16 = op ++ 0#12 := append_and_mask op x

/-- The encoding of an instruction selects a row of its mnemonic. -/
theorem exists_row_selects_encode (i : Instr) : ∃ r ∈ opcodeMap, r.selects (encode i).1 ∧ r.mnemonic = i.mnemonic := by
  cases i with
  | nop => simp [opcodeMap, OpcodeRow.selects, encode, Instr.mnemonic]
  | nopF x | movff fs fd => simp [opcodeMap, OpcodeRow.selects, encode, Instr.mnemonic, fourBits_and_mask]
  | addlw k | andlw k | iorlw k => simp [opcodeMap, OpcodeRow.selects, encode, Instr.mnemonic, encodeLit_and_mask]
  | clrf f a | movwf f a | mulwf f a | cpfseq f a | cpfsgt f a | cpfslt f a =>
    simp [opcodeMap, OpcodeRow.selects, encode, Instr.mnemonic, encodeByteA_and_mask]
  | addwf f d a | addwfc f d a | incf f d a | decf f d a | andwf f d a | iorwf f d a | comf f d a | movf f d a
  | incfsz f d a | decfsz f d a | infsnz f d a | dcfsnz f d a =>
    simp [opcodeMap, OpcodeRow.selects, encode, Instr.mnemonic, encodeByteDA_and_mask]

/-- A word that has `op` under a mask of high ones has it as its high field. -/
theorem extractLsb'_of_and_mask {n k : Nat} {w : BitVec (n + k)} {op : BitVec n}
    (h : w &&& (BitVec.allOnes n ++ 0#k) = op ++ 0#k) : w.extractLsb' k n = op := by
  have high := congrArg (BitVec.extractLsb' k n) h
  rwa [BitVec.extractLsb'_and, BitVec.extractLsb'_append_eq_left, BitVec.extractLsb'_append_eq_left,
    BitVec.and_allOnes] at high

theorem encodeLit_of_and_mask {w : Word} {op : BitVec 8} (h : w &&& 0xFF00#16 = op ++ 0#8) :
    encodeLit op (w.extractLsb' 0 8) = w := by
  obtain rfl : w.extractLsb' 8 8 = op := extractLsb'_of_and_mask h
  exact encodeLit_fields w

theorem encodeByteA_of_and_mask {w : Word} {op : BitVec 7} (h : w &&& 0xFE00#16 = op ++ 0#9) :
    encodeByteA op (w.extractLsb' 0 8) (.ofBit (w.getLsbD 8)) = w := by
  obtain rfl : w.extractLsb' 9 7 = op := extractLsb'_of_and_mask h
  exact encodeByteA_fields w

theorem encodeByteDA_of_and_mask {w : Word} {op : BitVec 6} (h : w &&& 0xFC00#16 = op ++ 0#10) :
    encodeByteDA op (w.extractLsb' 0 8) (.ofBit (w.getLsbD 9)) (.ofBit (w.getLsbD 8)) = w := by
  obtain rfl : w.extractLsb' 10 6 = op := extractLsb'_of_and_mask h
  exact encodeByteDA_fields w

theorem fourBits_of_and_mask {w : Word} {op : BitVec 4} (h : w &&& 0xF000#16 = op ++ 0#12) :
    op ++ w.extractLsb' 0 12 = w :=
  append_fields_of_extractLsb' (extractLsb'_of_and_mask h)

/-- A word that selects a row is the first word of an instruction of its mnemonic: row by row, the operands are the fields of
the word. -/
theorem exists_encode_of_selects :
    ∀ r ∈ opcodeMap, ∀ w : Word, r.selects w → ∃ i, (encode i).1 = w ∧ i.mnemonic = r.mnemonic := by
  simp only [opcodeMap, List.cons_append, List.nil_append, List.forall_mem_cons]
  exact ⟨fun _ h => ⟨.addwf _ _ _, encodeByteDA_of_and_mask h, rfl⟩,
    fun _ h => ⟨.addlw _, encodeLit_of_and_mask h, rfl⟩,
    fun _ h => ⟨.addwfc _ _ _, encodeByteDA_of_and_mask h, rfl⟩,
    fun _ h => ⟨.incf _ _ _, encodeByteDA_of_and_mask h, rfl⟩,
    fun _ h => ⟨.decf _ _ _, encodeByteDA_of_and_mask h, rfl⟩,
    fun _ h => ⟨.andwf _ _ _, encodeByteDA_of_and_mask h, rfl⟩,
    fun _ h => ⟨.andlw _, encodeLit_of_and_mask h, rfl⟩,
    fun _ h => ⟨.iorwf _ _ _, encodeByteDA_of_and_mask h, rfl⟩,
    fun _ h => ⟨.iorlw _, encodeLit_of_and_mask h, rfl⟩,
    fun _ h => ⟨.comf _ _ _, encodeByteDA_of_and_mask h, rfl⟩,
    fun _ h => ⟨.clrf _ _, encodeByteA_of_and_mask h, rfl⟩,
    fun _ h => ⟨.movf _ _ _, encodeByteDA_of_and_mask h, rfl⟩,
    fun _ h => ⟨.movff _ 0#12, fourBits_of_and_mask h, rfl⟩,
    fun _ h => ⟨.movwf _ _, encodeByteA_of_and_mask h, rfl⟩,
    fun _ h => ⟨.mulwf _ _, encodeByteA_of_and_mask h, rfl⟩,
    fun _ h => ⟨.nop, h.symm.trans BitVec.and_allOnes, rfl⟩,
    fun _ h => ⟨.nopF _, fourBits_of_and_mask h, rfl⟩,
    fun _ h => ⟨.incfsz _ _ _, encodeByteDA_of_and_mask h, rfl⟩,
    fun _ h => ⟨.decfsz _ _ _, encodeByteDA_of_and_mask h, rfl⟩,
    fun _ h => ⟨.infsnz _ _ _, encodeByteDA_of_and_mask h, rfl⟩,
    fun _ h => ⟨.dcfsnz _ _ _, encodeByteDA_of_and_mask h, rfl⟩,
    fun _ h => ⟨.cpfseq _ _, encodeByteA_of_and_mask h, rfl⟩,
    fun _ h => ⟨.cpfsgt _ _, encodeByteA_of_and_mask h, rfl⟩,
    fun _ h => ⟨.cpfslt _ _, encodeByteA_of_and_mask h, rfl⟩,
    nofun⟩

/-- No two rows agree on the bits that both of them fix. -/
theorem opcodeMap_pairwise : opcodeMap.Pairwise fun r r' => r.pattern &&& r'.mask ≠ r'.pattern &&& r.mask := by decide

theorem not_selects_both {r r' : OpcodeRow} (h : r.pattern &&& r'.mask ≠ r'.pattern &&& r.mask) (w : Word) :
    ¬(r.selects w ∧ r'.selects w) := by
  rintro ⟨hr, hr'⟩
  rw [← hr, ← hr', BitVec.and_assoc, BitVec.and_assoc, BitVec.and_comm r.mask] at h
  exact h rfl

/-- Settles O4: a decoded word is the first word of its instruction's encoding, which selects a row; a word that selects a row
is the first word of an encoding, which decodes (O2), but for a MOVFF whose second word is the given one and not its own. -/
theorem decodeAgreesWithTheOpcodeMap : Obligations.DecodeAgreesWithTheOpcodeMap := by
  refine ⟨fun w1 w2 i hd => ?_, fun r hr w1 w2 hs => ?_, opcodeMap_pairwise.imp not_selects_both⟩
  · have word1 : (encode i).1 = w1 := by obtain h | h := encode_of_decode hd <;> rw [h]
    exact word1 ▸ exists_row_selects_encode i
  · obtain ⟨i, rfl, hm⟩ := exists_encode_of_selects r hr w1 hs
    rw [← hm]
    cases i with
    | movff fs fd =>
      have h1 : (encode (.movff fs fd)).1.extractLsb' 12 4 = 0b1100#4 := BitVec.extractLsb'_append_eq_left
      by_cases h2 : w2.extractLsb' 12 4 = 0xF#4
      · rw [if_neg (·.2 h2)]
        exact ⟨_, decode_of_movff h1 h2, rfl⟩
      · rw [if_pos ⟨rfl, h2⟩]
        exact decode_of_movff_word2 h1 h2
    | _ =>
      rw [if_neg (by simp [Instr.mnemonic])]
      exact ⟨_, decodeOfEncodeIsTheInstruction _ w2, rfl⟩

end Sys2Proof
end

section
/-! The width of an instruction in the step (spec 30_encoding.md R66, R67, 41_stack_pc_trace.md R107, R114). -/

namespace Sys2Proof.Machine

/-- Settles O6: the second word is checked by the decoder, whose error the step takes as its fault; the word alone decodes to
`nopF`, which advances the PC by its width. -/
theorem movffSecondWordIsChecked : Obligations.MovffSecondWordIsChecked :=
  ⟨fun _ hh h1 h2 => step_of_decode_error hh (decode_of_movff_word2 h1 h2),
    fun s hh h => (step_of_decode hh (decode_of_nopF h _)).trans (finish_eq s 2 false)⟩

/-- An instruction raises a fault, or ends with its own width, and with a skip only where it is a skip instruction. What it
stored before does not touch the PC. -/
theorem exec_eq_raise_or_finish (i : Instr) (s : State) :
    (∃ k, exec i s = .next (s.raise k)) ∨
    ∃ (u : State) (skip : Bool), exec i s = finish u i.width skip ∧ u.pc = s.pc ∧ u.cfg = s.cfg ∧
      (skip = true → i.mnemonic ∈ ["INCFSZ", "DECFSZ", "INFSNZ", "DCFSNZ", "CPFSEQ", "CPFSGT", "CPFSLT"]) := by
  cases i with
  | movff fs fd =>
    simp only [exec, execMovff]
    split
    · exact .inl ⟨_, rfl⟩
    split
    · exact .inl ⟨_, rfl⟩
    · exact .inr ⟨_, false, rfl, rfl, rfl, nofun⟩
  | incfsz f d a | decfsz f d a | infsnz f d a | dcfsnz f d a | cpfseq f a | cpfsgt f a | cpfslt f a =>
    exact .inr ⟨_, _, rfl, rfl, rfl, fun _ => by simp [Instr.mnemonic]⟩
  | _ => exact .inr ⟨_, false, rfl, rfl, rfl, nofun⟩

/-- Settles O20: an instruction that raised a fault did not complete, and any other ends in `finish` with its own width. -/
theorem completedInstructionAdvancesByItsWidth : Obligations.CompletedInstructionAdvancesByItsWidth := by
  intro i s t h hh
  obtain ⟨k, hk⟩ | ⟨u, skip, hu, pc, cfg, hskip⟩ := exec_eq_raise_or_finish i s
  · cases hk.symm.trans h
    cases hh
  · cases (hu.trans (finish_eq u i.width skip)).symm.trans h
    cases skip with
    | false => exact .inl (by simp [pc, cfg])
    | true => exact .inr ⟨hskip rfl, by simp [pc, cfg]⟩

end Sys2Proof.Machine
end

section
/-! The status flag engine (spec 40_status_flag_engine.md R88 to R95): the results as modular sums and differences, the five
flags of each style, and the STATUS update. -/

namespace Sys2Proof.Machine

/-! ### The results and the low nibble -/

theorem lowNibble_eq_mod (a : Byte) : lowNibble a = a.toNat % 16 := Nat.and_two_pow_sub_one_eq_mod a.toNat 4

theorem flagsAdd_fst (a b : Byte) (cin : Bool) : (flagsAdd a b cin).1 = a + b + if cin then 1#8 else 0#8 := by
  cases cin <;> simp [flagsAdd, BitVec.ofNat_add]

theorem flagsSub_fst (a b : Byte) : (flagsSub a b).1 = a - b := by
  apply BitVec.eq_of_toNat_eq
  simp only [flagsSub, BitVec.toNat_ofInt, BitVec.toNat_sub]
  omega

theorem flagsAdd_fst_toNat (a b : Byte) (cin : Bool) :
    (flagsAdd a b cin).1.toNat = (a.toNat + b.toNat + cin.toNat) % 256 := BitVec.toNat_ofNat _ _

theorem flagsSub_fst_toNat (a b : Byte) : ((flagsSub a b).1.toNat : Int) = ((a.toNat : Int) - b.toNat) % 256 := by
  rw [flagsSub_fst, BitVec.toNat_sub]
  omega

/-- The signed result is the signed sum, wrapped. -/
theorem flagsAdd_fst_toInt (a b : Byte) (cin : Bool) :
    (flagsAdd a b cin).1.toInt = (a.toInt + b.toInt + cin.toNat).bmod 256 := by
  simp only [BitVec.toInt_eq_toNat_bmod, flagsAdd_fst_toNat, Int.bmod_def]
  omega

/-! ### The flags, term by term -/

theorem zero_flag_iff (r : Byte) : decide (r = 0#8) = true ↔ r.toNat = 0 :=
  decide_eq_true_iff.trans BitVec.toNat_inj.symm

theorem flagsAdd_ov_iff (a b : Byte) (cin : Bool) :
    (flagsAdd a b cin).2.ov = true ↔ a.msb = b.msb ∧ (flagsAdd a b cin).1.msb ≠ a.msb := by
  simp [flagsAdd]

theorem flagsSub_ov_iff (a b : Byte) :
    (flagsSub a b).2.ov = true ↔ a.msb ≠ b.msb ∧ (flagsSub a b).1.msb ≠ a.msb := by
  simp [flagsSub]

/-- Settles O7: the sign tests of the formula are tests of bit 7, and the nibbles are remainders. -/
theorem addFlagsFollowTheFormula : Obligations.AddFlagsFollowTheFormula := by
  intro a b cin raw r fl
  refine ⟨flagsAdd_fst_toNat a b cin, zero_flag_iff r, r.msb_eq_getLsbD_last, decide_eq_true_iff, ?_, ?_⟩
  · rw [← lowNibble_eq_mod, ← lowNibble_eq_mod]
    exact decide_eq_true_iff
  · simpa only [BitVec.msb_eq_getLsbD_last] using flagsAdd_ov_iff a b cin

/-- Settles O8: as for the addition style. -/
theorem subFlagsFollowTheFormula : Obligations.SubFlagsFollowTheFormula := by
  intro a b r fl
  refine ⟨flagsSub_fst_toNat a b, zero_flag_iff r, r.msb_eq_getLsbD_last, decide_eq_true_iff, ?_, ?_⟩
  · rw [← lowNibble_eq_mod, ← lowNibble_eq_mod]
    exact decide_eq_true_iff
  · simpa only [BitVec.msb_eq_getLsbD_last] using flagsSub_ov_iff a b

/-! ### Subtraction as addition -/

theorem lowNibble_not (b : Byte) : lowNibble (~~~b) = 15 - lowNibble b := by
  rw [lowNibble_eq_mod, lowNibble_eq_mod, BitVec.toNat_not]
  omega

theorem flagsSub_fst_eq_flagsAdd_not (a b : Byte) : (flagsSub a b).1 = (flagsAdd a (~~~b) true).1 := by
  rw [flagsSub_fst, flagsAdd_fst, if_pos rfl, BitVec.sub_eq_add_neg, BitVec.neg_eq_not_add, BitVec.add_assoc]

/-- Settles O9: `~b` is `0xFF - b` in the Byte and `0xF - b` in the nibble, so a carry out of either sum is the absence of a
borrow, and `~b` has the other sign. -/
theorem subtractionIsAdditionOfTheComplement : Obligations.SubtractionIsAdditionOfTheComplement := by
  intro a b
  have result := flagsSub_fst_eq_flagsAdd_not a b
  have carry : a.toNat ≥ b.toNat ↔ a.toNat + (~~~b).toNat + 1 ≥ 256 := by
    rw [BitVec.toNat_not]
    omega
  have digitCarry : lowNibble a ≥ lowNibble b ↔ lowNibble a + lowNibble (~~~b) + 1 ≥ 16 := by
    rw [lowNibble_not]
    have := lowNibble_eq_mod b
    omega
  have sign : (a.msb != b.msb) = (a.msb == (~~~b).msb) := by
    rw [BitVec.msb_not]
    cases a.msb <;> cases b.msb <;> rfl
  simp only [flagsSub, flagsAdd, Bool.toNat_true] at result ⊢
  rw [result, decide_eq_decide.mpr carry, decide_eq_decide.mpr digitCarry, sign]

/-! ### Signed overflow -/

/-- The sum of two signed Bytes and a carry-in leaves the signed range exactly when wrapping it moves it to the other sign than
the one both operands have. -/
theorem flagsAdd_ov_iff_signed (a b : Byte) (cin : Bool) :
    (flagsAdd a b cin).2.ov = true ↔
      (a.toInt + b.toInt + cin.toNat < -128 ∨ 127 < a.toInt + b.toInt + cin.toNat) := by
  have ha := And.intro a.le_toInt a.toInt_lt
  have hb := And.intro b.le_toInt b.toInt_lt
  have hc := cin.toNat_le
  rw [flagsAdd_ov_iff]
  simp only [BitVec.msb_eq_toInt, flagsAdd_fst_toInt, Int.bmod_def, ne_eq, decide_eq_decide]
  omega

theorem toInt_complement (b : Byte) : (~~~b).toInt = -b.toInt - 1 := by
  rw [BitVec.toInt_eq_toNat_cond, BitVec.toInt_eq_toNat_cond, BitVec.toNat_not]
  omega

/-- Settles O11: a difference is the signed sum with the complement and a carry-in (O9), and the complement of `b` is the
signed number `-b - 1`. -/
theorem overflowMeansSignedResultOutOfRange : Obligations.OverflowMeansSignedResultOutOfRange := by
  refine ⟨flagsAdd_ov_iff_signed, fun a b => ?_⟩
  have difference : a.toInt + (~~~b).toInt + (true.toNat : Int) = a.toInt - b.toInt := by
    rw [toInt_complement, Bool.toNat_true]
    omega
  rw [subtractionIsAdditionOfTheComplement, flagsAdd_ov_iff_signed, difference]

/-- Settles O10: the formulas (O7, O8) and the signed range (O11) with one operand fixed at 1. -/
theorem incrementAndDecrementFlagCases : Obligations.IncrementAndDecrementFlagCases := by
  intro f
  have hf := f.isLt
  have nibble : (f &&& 0x0F#8).toNat = f.toNat % 16 := lowNibble_eq_mod f
  have signed := f.toInt_eq_toNat_cond
  obtain ⟨ovAdd, ovSub⟩ := overflowMeansSignedResultOutOfRange
  obtain ⟨rAdd, zAdd, nAdd, cAdd, dcAdd, -⟩ := addFlagsFollowTheFormula f 1#8 false
  obtain ⟨rSub, zSub, nSub, cSub, dcSub, -⟩ := subFlagsFollowTheFormula f 1#8
  have one : (1#8).toInt = 1 := rfl
  simp only [BitVec.toNat_ofNat, Bool.toNat_false] at rAdd cAdd dcAdd rSub cSub dcSub
  simp only [zAdd, nAdd, cAdd, dcAdd, ovAdd, zSub, nSub, cSub, dcSub, ovSub, ← BitVec.toNat_inj, nibble, one,
    Bool.toNat_false, BitVec.toNat_ofNat, ne_eq, true_and]
  refine ⟨⟨?_, ?_, ?_, ?_⟩, ?_, ?_, ?_, ?_⟩ <;> omega

/-! ### StatusUpdate -/

theorem pack_toNat (fl : Flags) :
    fl.pack.toNat = fl.c.toNat * 1 + fl.dc.toNat * 2 + fl.z.toNat * 4 + fl.ov.toNat * 8 + fl.n.toNat * 16 := by
  obtain ⟨z, n, c, dc, ov⟩ := fl
  revert z n c dc ov
  decide

theorem statusUpdate_status_getLsbD (mask : Byte) (fl : Flags) (s : State) {i : Nat} (hi : i < 8) :
    (statusUpdate mask fl s).status.getLsbD i = if mask.getLsbD i then fl.pack.getLsbD i else s.status.getLsbD i := by
  rw [statusUpdate_status, BitVec.getLsbD_or, BitVec.getLsbD_and, BitVec.getLsbD_and, BitVec.getLsbD_not]
  cases mask.getLsbD i <;> simp [hi]

theorem statusUpdate_zero_memRead (fl : Flags) (s : State) (ea : DataAddr) :
    (statusUpdate 0#8 fl s).memRead ea = s.memRead ea := by
  by_cases h : ea = addrStatus
  · subst h
    have unchanged : (statusUpdate 0#8 fl s).status = s.status := by
      rw [statusUpdate_status, BitVec.and_zero, BitVec.or_zero, BitVec.not_zero, BitVec.and_allOnes]
    exact unchanged
  · exact statusUpdate_memRead 0#8 fl s h

/-- Settles O12: StatusUpdate is one data write, of the STATUS cell. -/
theorem statusUpdateWritesOnlyMaskedBits : Obligations.StatusUpdateWritesOnlyMaskedBits := by
  intro mask fl s t
  refine ⟨pack_toNat fl, fun _ => statusUpdate_status_getLsbD mask fl s, fun _ => statusUpdate_memRead mask fl s, rfl,
    sameOutside_memWrite s s _ _ (sameOutside_refl s), ?_⟩
  rintro rfl
  exact statusUpdate_zero_memRead fl s

end Sys2Proof.Machine
end

section
/-! The call stack (spec 10_state.md R24, R30, 41_stack_pc_trace.md R99 to R103): STKPTR as three upper bits before SP, what
Push and Pop do in each of their cases, and the addresses a stack holds. -/

namespace Sys2Proof.Machine

/-! ### STKPTR: bits 7:5 and SP (R24) -/

/-- STKPTR with another SP, as Push and Pop form it: bits 7:5 are kept (R100, R101). -/
def withSp (p : Byte) (n : BitVec 5) : Byte := (p &&& 0xE0#8) ||| n.setWidth 8

theorem extractLsb'_append_sp (p : Byte) : p.extractLsb' 5 3 ++ p.extractLsb' 0 5 = p :=
  (BitVec.extractLsb'_append_extractLsb'_eq_extractLsb' rfl).trans BitVec.extractLsb'_eq_self

theorem stkptr_and_mask (p : Byte) : p &&& 0xE0#8 = p.extractLsb' 5 3 ++ 0#5 := by
  have mask := append_and_mask (p.extractLsb' 5 3) (p.extractLsb' 0 5)
  rwa [extractLsb'_append_sp] at mask

section

variable (p : Byte) (n : BitVec 5)

theorem withSp_eq_append : withSp p n = p.extractLsb' 5 3 ++ n := by
  have low : n.setWidth 8 = 0#3 ++ n := BitVec.setWidth_eq_append (by decide)
  rw [withSp, stkptr_and_mask, low, BitVec.or_append, BitVec.or_zero, BitVec.zero_or]

@[simp] theorem withSp_sp : (withSp p n).extractLsb' 0 5 = n := by
  rw [withSp_eq_append, BitVec.extractLsb'_append_eq_right]

theorem withSp_and_mask : withSp p n &&& 0xE0#8 = p &&& 0xE0#8 := by
  rw [withSp_eq_append, stkptr_and_mask p]
  exact append_and_mask _ n

theorem withSp_getLsbD {bit : Nat} (h5 : 5 ≤ bit) (h8 : bit < 8) : (withSp p n).getLsbD bit = p.getLsbD bit := by
  have inside : bit - 5 < 3 := by omega
  rw [withSp_eq_append, BitVec.getLsbD_append, if_neg (by omega), BitVec.getLsbD_extractLsb', decide_eq_true inside,
    Bool.true_and, Nat.add_sub_cancel' h5]

/-- Counting SP up counts STKPTR up, unless SP wraps. -/
theorem withSp_succ (h : p.extractLsb' 0 5 ≠ 31#5) : withSp p (p.extractLsb' 0 5 + 1#5) = p + 1#8 := by
  have value (hi : BitVec 3) (lo : BitVec 5) : (hi ++ lo).toNat = hi.toNat * 32 + lo.toNat := by
    rw [BitVec.toNat_append, ← Nat.shiftLeft_add_eq_or_of_lt lo.isLt, Nat.shiftLeft_eq]
  have whole := value (p.extractLsb' 5 3) (p.extractLsb' 0 5)
  rw [extractLsb'_append_sp] at whole
  apply BitVec.eq_of_toNat_eq
  rw [withSp_eq_append, value]
  bv_omega

end

/-! ### The shape of Push and Pop: perhaps a slot is written, then STKPTR, then an event is recorded -/

namespace State

/-- The event `e` is recorded, once, in `t` and nothing else is done to the trace of `s` (R110). -/
def Records (s t : State) (e : TraceEvent) : Prop :=
  t.trace = (s.traceRecord e).trace ∧ t.tw = (s.traceRecord e).tw ∧ t.tr = (s.traceRecord e).tr

/-- What neither Push nor Pop changes: every cell of data memory but STKPTR, and all outside data memory but the slots and
the trace. -/
structure SameButStackAndTrace (s t : State) : Prop where
  others : ∀ ea, ea ≠ addrStkptr → t.memRead ea = s.memRead ea
  cfg : t.cfg = s.cfg
  pc : t.pc = s.pc
  pm : t.pm = s.pm
  halted : t.halted = s.halted
  resetCount : t.resetCount = s.resetCount

/-- The slots, STKPTR and the trace after one stack operation. -/
def stackUpdate (s : State) (slots : Vector StackSlot stackDepth) (p : Byte) (e : TraceEvent) : State :=
  ({ s with stack := slots }.memWrite addrStkptr p).traceRecord e

section

variable (s : State) (slots : Vector StackSlot stackDepth) (p : Byte) (e : TraceEvent)

@[simp] theorem stackUpdate_stack : (s.stackUpdate slots p e).stack = slots := rfl

@[simp] theorem stackUpdate_cfg : (s.stackUpdate slots p e).cfg = s.cfg := rfl

@[simp] theorem stackUpdate_stkptr : (s.stackUpdate slots p e).stkptr = p := by
  simp [stackUpdate, stkptr]

@[simp] theorem stackUpdate_sp : (s.stackUpdate slots p e).sp = p.extractLsb' 0 5 := by
  rw [sp, stackUpdate_stkptr]

theorem stackUpdate_records : s.Records (s.stackUpdate slots p e) e := ⟨rfl, rfl, rfl⟩

theorem stackUpdate_frame : s.SameButStackAndTrace (s.stackUpdate slots p e) :=
  ⟨fun _ h => memRead_memWrite_other _ p h, rfl, rfl, rfl, rfl, rfl⟩

end

variable {s : State} {addr : Nat}

theorem push_of_full (h : s.sp = 31#5) :
    s.push addr = s.stackUpdate s.stack (s.stkptr ||| 0x80#8) (.stackOverflow addr) := if_pos h

theorem push_of_room (h : s.sp ≠ 31#5) :
    s.push addr =
      s.stackUpdate (s.stack.setIfInBounds s.sp.toNat (.holds addr)) (withSp s.stkptr (s.sp + 1#5)) (.push addr) := if_neg h

theorem pop_of_empty (h : s.sp = 0#5) :
    s.pop = (s.stackUpdate s.stack (s.stkptr ||| 0x40#8) .stackUnderflow, none) := if_pos h

theorem pop_of_ne (h : s.sp ≠ 0#5) :
    s.pop =
      (s.stackUpdate s.stack (withSp s.stkptr (s.sp - 1#5)) (.pop (s.stackValue (s.sp - 1#5).toNat)),
        some (s.stackValue (s.sp - 1#5).toNat)) := if_neg h

theorem push_frame (s : State) (addr : Nat) : s.SameButStackAndTrace (s.push addr) := by
  by_cases h : s.sp = 31#5
  · exact push_of_full h ▸ stackUpdate_frame _ _ _ _
  · exact push_of_room h ▸ stackUpdate_frame _ _ _ _

theorem pop_frame (s : State) : s.SameButStackAndTrace s.pop.1 := by
  by_cases h : s.sp = 0#5
  · exact pop_of_empty h ▸ stackUpdate_frame _ _ _ _
  · exact pop_of_ne h ▸ stackUpdate_frame _ _ _ _

/-- No Pop writes a slot. -/
theorem pop_stack (s : State) : s.pop.1.stack = s.stack := by
  by_cases h : s.sp = 0#5
  · rw [pop_of_empty h, stackUpdate_stack]
  · rw [pop_of_ne h, stackUpdate_stack]

end State

theorem hostExec_push_of_inRange {s : State} {addr : Nat} (h : addr < s.cfg.pmemBytes) :
    hostExec (.push addr) s = (s.push addr, .done) := by
  have ha : inRange addr s.cfg.pmemBytes = true := (inRange_eq_true_iff _ _).mpr (by omega)
  simp [hostExec, hostPush, ha]

theorem hostExec_push_of_not_inRange {s : State} {addr : Int} (h : ¬(0 ≤ addr ∧ addr < s.cfg.pmemBytes)) :
    hostExec (.push addr) s = (s, .refused (.pushRange addr)) := by
  simp [hostExec, hostPush, (inRange_eq_false_iff _ _).mpr h]

theorem hostExec_pop (s : State) : hostExec .pop s = (s.pop.1, .popped s.pop.2) := rfl

/-- Settles O53: an accepted Push is a stack update, on a full stack and on one with room. -/
theorem pushWritesASlotOrSaturates : Obligations.PushWritesASlotOrSaturates := by
  refine fun s => ⟨fun addr h => hostExec_push_of_not_inRange h, fun addr h => ?_⟩
  obtain ⟨others, cfg, pc, pm, halted, resetCount⟩ := s.push_frame addr
  rw [hostExec_push_of_inRange h]
  refine ⟨rfl, others, cfg, pc, pm, halted, resetCount, fun full => ?_, fun room => ?_⟩
  · rw [State.push_of_full full]
    exact ⟨s.stackUpdate_stkptr _ _ _, rfl, s.stackUpdate_records _ _ _⟩
  · dsimp only
    rw [State.push_of_room room, State.stackUpdate_stkptr, State.stackUpdate_sp, withSp_sp]
    refine ⟨fun i => ?_, rfl, withSp_and_mask _ _, withSp_succ _ room, s.stackUpdate_records _ _ _⟩
    simp only [State.stackUpdate_stack, Vector.getElem_setIfInBounds, eq_comm]

/-- Settles O54: Pop is a stack update that leaves the slots, on an empty stack and on one that is not. -/
theorem popReadsASlotOrUnderflows : Obligations.PopReadsASlotOrUnderflows := by
  intro s
  obtain ⟨others, cfg, pc, pm, halted, resetCount⟩ := s.pop_frame
  rw [hostExec_pop]
  refine ⟨others, cfg, pc, pm, s.pop_stack, halted, resetCount, fun empty => ?_, fun ne => ?_⟩
  · rw [State.pop_of_empty empty]
    exact ⟨rfl, s.stackUpdate_stkptr _ _ _, s.stackUpdate_records _ _ _⟩
  · dsimp only
    rw [State.pop_of_ne ne, State.stackUpdate_stkptr, State.stackUpdate_sp, withSp_sp]
    refine ⟨rfl, withSp_and_mask _ _, ⟨_, rfl, s.stackUpdate_records _ _ _⟩, fun v hv => ?_⟩
    rw [s.stackValue_holds hv]

/-! ### The addresses a stack holds (R102) -/

/-- The addresses of a list, the top of the stack first, stand in the slots below the list's length. -/
def SlotsHold (slots : Vector StackSlot stackDepth) : List Nat → Prop
  | [] => True
  | a :: as => slots[as.length]? = some (.holds a) ∧ SlotsHold slots as

/-- The stack holds exactly the addresses of a list, the top first, all of them pushed. -/
def StackHolds (s : State) (as : List Nat) : Prop := s.sp.toNat = as.length ∧ SlotsHold s.stack as

/-- Writing a slot above them leaves the addresses held. -/
theorem SlotsHold.setIfInBounds {slots : Vector StackSlot stackDepth} {as : List Nat} (h : SlotsHold slots as) {n : Nat}
    (hn : as.length ≤ n) (x : StackSlot) : SlotsHold (slots.setIfInBounds n x) as := by
  induction as with
  | nil => trivial
  | cons a as ih =>
    obtain ⟨top, below⟩ := h
    rw [List.length_cons] at hn
    exact ⟨(Vector.getElem?_setIfInBounds_ne (by omega)).trans top, ih below (by omega)⟩

theorem StackHolds.nil {s : State} (h : s.sp = 0#5) : StackHolds s [] := ⟨by simp [h], trivial⟩

theorem StackHolds.sp_eq {s : State} {as : List Nat} (h : StackHolds s as) : s.sp = BitVec.ofNat 5 as.length := by
  rw [← h.1, BitVec.ofNat_toNat, BitVec.setWidth_eq]

theorem StackHolds.room {s : State} {as : List Nat} (h : StackHolds s as) (hlen : as.length < 31) : s.sp ≠ 31#5 := by
  obtain ⟨hsp, -⟩ := h
  rintro full
  rw [full] at hsp
  exact absurd hsp hlen.ne'

theorem StackHolds.push {s : State} {as : List Nat} (h : StackHolds s as) (hlen : as.length < 31) (a : Nat) :
    StackHolds (s.push a) (a :: as) := by
  rw [StackHolds, State.push_of_room (h.room hlen)]
  obtain ⟨hsp, slots⟩ := h
  simp only [State.stackUpdate_sp, State.stackUpdate_stack, withSp_sp, hsp]
  exact ⟨by rw [List.length_cons]; bv_omega, by simp [hlen], slots.setIfInBounds le_rfl _⟩

/-- On a full stack a Push leaves the addresses held: it sets STKFUL, which is no bit of SP. -/
theorem StackHolds.push_full {s : State} {as : List Nat} (h : StackHolds s as) (full : s.sp = 31#5) (a : Nat) :
    StackHolds (s.push a) as := by
  have sp : (s.push a).sp = s.sp := by
    rw [State.push_of_full full, State.stackUpdate_sp, BitVec.extractLsb'_or]
    exact BitVec.or_zero
  obtain ⟨hsp, slots⟩ := h
  rw [StackHolds, sp, State.push_of_full full]
  exact ⟨hsp, slots⟩

theorem StackHolds.pop {s : State} {a : Nat} {as : List Nat} (h : StackHolds s (a :: as)) :
    s.pop.2 = some a ∧ StackHolds s.pop.1 as := by
  obtain ⟨hsp, top, below⟩ := h
  rw [List.length_cons] at hsp
  have ne : s.sp ≠ 0#5 := by
    intro empty
    simp [empty] at hsp
  have under : (s.sp - 1#5).toNat = as.length := by bv_omega
  rw [StackHolds, State.pop_of_ne ne]
  simp only [State.stackUpdate_sp, State.stackUpdate_stack, withSp_sp, under]
  exact ⟨congrArg some (s.stackValue_holds top), trivial, below⟩

/-! ### Schedules of Pushes and of Pops -/

theorem hostRun_cons_answers (op : HostOp) (ops : List HostOp) (s : State) :
    (hostRun (op :: ops) s).2 = (hostExec op s).2 :: (hostRun ops (hostExec op s).1).2 := rfl

theorem State.push_stkptr_getLsbD_of_room {s : State} (h : s.sp ≠ 31#5) (addr : Nat) {bit : Nat} (h5 : 5 ≤ bit)
    (h8 : bit < 8) : (s.push addr).stkptr.getLsbD bit = s.stkptr.getLsbD bit := by
  rw [push_of_room h, stackUpdate_stkptr, withSp_getLsbD _ _ h5 h8]

/-- Pushing addresses in range where there is room for all of them puts them on the addresses held, the last on top, and
STKFUL stays as it was. -/
theorem StackHolds.hostRun_push {addrs as : List Nat} {s : State} (h : StackHolds s as)
    (room : as.length + addrs.length ≤ 31) (inRange : ∀ a ∈ addrs, a < s.cfg.pmemBytes) :
    let t := (hostRun (addrs.map fun a : Nat => .push a) s).1
    StackHolds t (addrs.reverse ++ as) ∧ t.stkptr.getLsbD 7 = s.stkptr.getLsbD 7 ∧ t.cfg = s.cfg := by
  induction addrs generalizing as s with
  | nil => exact ⟨h, rfl, rfl⟩
  | cons a addrs ih =>
    rw [List.length_cons] at room
    obtain ⟨ha, hrest⟩ := List.forall_mem_cons.mp inRange
    have cfg := (s.push_frame a).cfg
    obtain ⟨holds, bit, cfg'⟩ := ih (h.push (by omega) a) (by rw [List.length_cons]; omega) (cfg ▸ hrest)
    rw [List.map_cons, hostRun_cons_state, hostExec_push_of_inRange ha, List.reverse_cons, List.append_assoc]
    exact ⟨holds, bit.trans (State.push_stkptr_getLsbD_of_room (h.room (by omega)) a (by decide) (by decide)),
      cfg'.trans cfg⟩

/-- The schedule of Pushes as the obligation elaborates it, with the coercion of the addresses lifted to the list. -/
theorem map_push_coe (addrs : List Nat) :
    ((do let a ← addrs; pure (a : Int)) : List Int).map HostOp.push = addrs.map fun a : Nat => .push a := by
  simp only [List.bind_eq_flatMap, List.pure_def, ← List.map_eq_flatMap, List.map_map, Function.comp_def]

/-- Popping as often as there are addresses held answers them, the top first, and leaves none. -/
theorem StackHolds.hostRun_pop {as : List Nat} {s : State} (h : StackHolds s as) :
    (hostRun (List.replicate as.length .pop) s).2 = as.map (fun a => .popped (some a)) ∧
    StackHolds (hostRun (List.replicate as.length .pop) s).1 [] := by
  induction as generalizing s with
  | nil => exact ⟨rfl, h⟩
  | cons a as ih =>
    obtain ⟨top, below⟩ := h.pop
    obtain ⟨answers, empty⟩ := ih below
    rw [List.length_cons, List.replicate_succ, hostRun_cons_answers, hostRun_cons_state, hostExec_pop, top, answers]
    exact ⟨rfl, empty⟩

/-- Settles O56, by what the stack holds: nothing, the 31 addresses, the same after the overflow, and nothing again. -/
theorem stackReturnsThirtyOneAddressesInReverse : Obligations.StackReturnsThirtyOneAddressesInReverse := by
  intro s addrs extra hsp hlen hr hextra
  rw [map_push_coe]
  intro s1 s2 s3
  obtain ⟨holds1, bit1, cfg1⟩ := (StackHolds.nil hsp).hostRun_push (by simp [hlen]) hr
  rw [List.append_nil] at holds1
  have count : addrs.reverse.length = 31 := by rw [List.length_reverse, hlen]
  have sp1 : s1.sp = 31#5 := by rw [holds1.sp_eq, count]
  have push2 : s2 = s1.push extra := congrArg Prod.fst (hostExec_push_of_inRange (cfg1.symm ▸ hextra))
  have holds2 : StackHolds s2 addrs.reverse := push2 ▸ holds1.push_full sp1 extra
  obtain ⟨answers, holds3⟩ := holds2.hostRun_pop
  rw [count] at answers holds3
  have sp3 : s3.sp = 0#5 := holds3.sp_eq
  have stkful : s2.stkptr.getLsbD 7 = true := by simp [push2, State.push_of_full sp1]
  have slots : s2.stack = s1.stack := by rw [push2, State.push_of_full sp1, State.stackUpdate_stack]
  rw [hostExec_pop, State.pop_of_empty sp3]
  exact ⟨sp1, bit1, stkful, slots, answers, rfl, by simp⟩

end Sys2Proof.Machine
end

section
/-! What the operations of the host leave alone (spec 00_scope.md R10): the trace, which only Push and Pop write
(41_stack_pc_trace.md R111), and the sticky bits of STKPTR, which only data writes and Reset clear (R103). -/

namespace Sys2Proof.Machine

open State

/-! ### What an operation does to the state -/

theorem hostExec_pmWrite_state (addr v : Int) (s : State) :
    ∃ pm, (hostExec (.pmWrite addr v) s).1 = { s with pm := pm } := by
  cases ha : inRange addr s.cfg.pmemBytes with
  | false => exact ⟨s.pm, congrArg Prod.fst (hostExec_pmWrite_of_address_not_inRange ha)⟩
  | true =>
    cases hv : inRange v 65536 with
    | false => exact ⟨s.pm, congrArg Prod.fst (hostExec_pmWrite_of_value_not_inRange ha hv)⟩
    | true => exact ⟨_, congrArg Prod.fst (hostExec_pmWrite_of_inRange ha hv)⟩

theorem toNat_ofInt_of_inRange {x : Int} {n : Nat} (h : inRange x (2 ^ n) = true) : ((BitVec.ofInt n x).toNat : Int) = x := by
  obtain ⟨h0, hlt⟩ := (inRange_eq_true_iff _ _).mp h
  rw [BitVec.toNat_ofInt, Int.emod_eq_of_lt h0 hlt, Int.toNat_of_nonneg h0]

/-- A DMWrite is refused, or stores a Byte at a data address. -/
theorem hostExec_dmWrite_state (addr v : Int) (s : State) :
    (hostExec (.dmWrite addr v) s).1 = s ∨
    ∃ (ea : DataAddr) (b : Byte), addr = ea.toNat ∧ v = b.toNat ∧ (hostExec (.dmWrite addr v) s).1 = s.memWrite ea b := by
  cases ha : inRange addr 65536 with
  | false => exact .inl (congrArg Prod.fst (hostExec_dmWrite_of_address_not_inRange ha))
  | true =>
    cases hv : inRange v 256 with
    | false => exact .inl (congrArg Prod.fst (hostExec_dmWrite_of_value_not_inRange ha hv))
    | true =>
      exact .inr ⟨BitVec.ofInt 16 addr, BitVec.ofInt 8 v, (toNat_ofInt_of_inRange ha).symm, (toNat_ofInt_of_inRange hv).symm,
        congrArg Prod.fst (hostExec_dmWrite_of_inRange ha hv)⟩

/-- The host's Step moves to the next state the step answers, if it answers one. -/
theorem hostExec_step_state (s : State) : (hostExec .step s).1 = s ∨ step s = .next (hostExec .step s).1 := by
  show (hostStep s).1 = s ∨ step s = .next (hostStep s).1
  unfold hostStep
  split
  next h => exact .inr h
  next => exact .inl rfl
  next => exact .inl rfl

/-! ### The trace -/

/-- TraceRead moves the read cursor at most (R112). -/
theorem State.traceRead_state (s : State) : ∃ tr, s.traceRead.1 = { s with tr := tr } := by
  by_cases h : s.tr = s.tw
  · exact ⟨s.tr, congrArg Prod.fst (s.traceRead_of_eq h)⟩
  · exact ⟨_, congrArg Prod.fst (s.traceRead_of_ne h)⟩

theorem State.push_records (s : State) (addr : Nat) :
    s.Records (s.push addr) (if s.sp = 31#5 then .stackOverflow addr else .push addr) := by
  split
  next full => exact push_of_full full ▸ s.stackUpdate_records _ _ _
  next room => exact push_of_room room ▸ s.stackUpdate_records _ _ _

/-- An operation that is no Reset, Push or Pop keeps the ring and the write cursor, and the read cursor too unless it is
TraceRead. -/
theorem hostExec_keeps_trace {op : HostOp} (s : State) (hreset : op ≠ .reset) (hpop : op ≠ .pop)
    (hpush : ∀ addr, op ≠ .push addr) :
    (hostExec op s).1.trace = s.trace ∧ (hostExec op s).1.tw = s.tw ∧
    (op ≠ .traceRead → (hostExec op s).1.tr = s.tr) := by
  have unmoved {t : State} (h : t = s) : t.trace = s.trace ∧ t.tw = s.tw ∧ (op ≠ .traceRead → t.tr = s.tr) :=
    h ▸ ⟨rfl, rfl, fun _ => rfl⟩
  cases op with
  | reset => exact absurd rfl hreset
  | pop => exact absurd rfl hpop
  | push addr => exact absurd rfl (hpush addr)
  | pcRead | pcAdvance _ => exact ⟨rfl, rfl, fun _ => rfl⟩
  | pmReadHost addr => exact unmoved (hostPmRead_state addr s)
  | dmRead addr => exact unmoved (hostDmRead_state addr s)
  | pmWrite addr v =>
    obtain ⟨pm, h⟩ := hostExec_pmWrite_state addr v s
    exact h ▸ ⟨rfl, rfl, fun _ => rfl⟩
  | dmWrite addr v =>
    obtain h | ⟨ea, b, -, -, h⟩ := hostExec_dmWrite_state addr v s
    · exact unmoved h
    · exact h ▸ ⟨rfl, rfl, fun _ => rfl⟩
  | traceRead =>
    obtain ⟨tr, h⟩ := s.traceRead_state
    rw [hostExec_traceRead, h]
    exact ⟨rfl, rfl, fun hne => absurd rfl hne⟩
  | step =>
    obtain h | h := hostExec_step_state s
    · exact unmoved h
    · obtain ⟨-, -, -, trace, tw, tr, -⟩ := stepsLeaveProgramStackAndTraceAlone s _ h
      exact ⟨trace, tw, fun _ => tr⟩

/-- Settles O29: an accepted Push and a Pop are stack updates, which record their one event. -/
theorem onlyPushAndPopRecordEvents : Obligations.OnlyPushAndPopRecordEvents := by
  refine fun s => ⟨fun op => hostExec_keeps_trace s, fun addr h => ?_, fun addr h => ?_, fun v hv => ?_⟩
  · rw [hostExec_push_of_not_inRange h]
  · rw [hostExec_push_of_inRange h]
    exact s.push_records addr
  · rw [hostExec_pop] at hv ⊢
    by_cases empty : s.sp = 0#5
    · rw [pop_of_empty empty] at hv ⊢
      cases hv
      exact s.stackUpdate_records _ _ _
    · rw [pop_of_ne empty] at hv ⊢
      cases hv
      exact s.stackUpdate_records _ _ _

/-! ### The sticky bits -/

/-- A step stores to no cell but STATUS and the result cells of a decoded instruction. -/
theorem step_memRead {s t : State} (h : step s = .next t) {ea : DataAddr} (hea : ea ≠ addrStatus) :
    t.memRead ea = s.memRead ea ∨
    (s.halted = none ∧ ∃ i, decode s.fetch1 s.fetch2 = .ok i ∧ ea ∈ resultCells i s) := by
  cases hh : s.halted with
  | some r => simp [step_of_halted hh] at h
  | none =>
    cases hd : decode s.fetch1 s.fetch2 with
    | error e =>
      cases (step_of_decode_error hh hd).symm.trans h
      exact .inl rfl
    | ok i =>
      obtain ⟨u, hu, others⟩ := exec_memRead_of_not_mem i s
      cases (hu.symm.trans (step_of_decode hh hd).symm).trans h
      by_cases cell : ea ∈ resultCells i s
      · exact .inr ⟨rfl, i, rfl, cell⟩
      · exact .inl (others ea cell hea)

theorem State.push_keeps_sticky (s : State) (addr : Nat) {bit : Nat} (hbit : bit = 6 ∨ bit = 7)
    (isSet : s.stkptr.getLsbD bit = true) : (s.push addr).stkptr.getLsbD bit = true := by
  by_cases h : s.sp = 31#5
  · rw [push_of_full h, stackUpdate_stkptr, BitVec.getLsbD_or, isSet, Bool.true_or]
  · rw [push_stkptr_getLsbD_of_room h addr (by omega) (by omega), isSet]

theorem State.pop_keeps_sticky (s : State) {bit : Nat} (hbit : bit = 6 ∨ bit = 7)
    (isSet : s.stkptr.getLsbD bit = true) : s.pop.1.stkptr.getLsbD bit = true := by
  by_cases h : s.sp = 0#5
  · rw [pop_of_empty h, stackUpdate_stkptr, BitVec.getLsbD_or, isSet, Bool.true_or]
  · rw [pop_of_ne h, stackUpdate_stkptr, withSp_getLsbD _ _ (by omega) (by omega), isSet]

/-- An operation that finds a sticky bit set and leaves it clear is one of the three of R103. -/
theorem hostExec_clears_sticky (op : HostOp) (s : State) {bit : Nat} (hbit : bit = 6 ∨ bit = 7)
    (isSet : s.stkptr.getLsbD bit = true) :
    (hostExec op s).1.stkptr.getLsbD bit = true ∨ op = .reset ∨
    (∃ v : Byte, op = .dmWrite 0xFFC v.toNat ∧ v.getLsbD bit = false) ∨
    (op = .step ∧ s.halted = none ∧ ∃ i, decode s.fetch1 s.fetch2 = .ok i ∧ addrStkptr ∈ resultCells i s) := by
  have kept {t : State} (h : t.stkptr = s.stkptr) : t.stkptr.getLsbD bit = true := h ▸ isSet
  cases op with
  | reset => exact .inr (.inl rfl)
  | pcRead | pcAdvance _ => exact .inl isSet
  | pmReadHost addr => exact .inl (kept (congrArg stkptr (hostPmRead_state addr s)))
  | dmRead addr => exact .inl (kept (congrArg stkptr (hostDmRead_state addr s)))
  | pmWrite addr v =>
    obtain ⟨pm, h⟩ := hostExec_pmWrite_state addr v s
    exact .inl (h ▸ isSet)
  | traceRead =>
    obtain ⟨tr, h⟩ := s.traceRead_state
    exact .inl (kept (h ▸ rfl))
  | pop => exact .inl (s.pop_keeps_sticky hbit isSet)
  | push addr =>
    by_cases h : 0 ≤ addr ∧ addr < s.cfg.pmemBytes
    · lift addr to Nat using h.1
      rw [hostExec_push_of_inRange (by omega)]
      exact .inl (s.push_keeps_sticky addr hbit isSet)
    · rw [hostExec_push_of_not_inRange h]
      exact .inl isSet
  | dmWrite addr v =>
    obtain h | ⟨ea, b, rfl, rfl, h⟩ := hostExec_dmWrite_state addr v s
    · exact .inl (kept (congrArg stkptr h))
    · by_cases hea : ea = addrStkptr
      · subst hea
        cases hb : b.getLsbD bit with
        | true => exact .inl (by rw [h, stkptr, memRead_memWrite_same, hb])
        | false => exact .inr (.inr (.inl ⟨b, rfl, hb⟩))
      · exact .inl (kept (h ▸ s.memRead_memWrite_other b (Ne.symm hea)))
  | step =>
    obtain h | h := hostExec_step_state s
    · exact .inl (kept (congrArg stkptr h))
    · obtain same | stored := step_memRead h (ea := addrStkptr) (by decide)
      · exact .inl (kept same)
      · exact .inr (.inr (.inr ⟨rfl, stored⟩))

/-! ### What Push and Pop read -/

/-- Two states agree on all that Push and Pop read: of STKPTR only SP, and no other cell of data memory. -/
structure State.StackAgrees (s u : State) : Prop where
  sp : u.sp = s.sp
  cfg : u.cfg = s.cfg
  stack : u.stack = s.stack
  trace : u.trace = s.trace
  tw : u.tw = s.tw
  tr : u.tr = s.tr
  resetCount : u.resetCount = s.resetCount

namespace State.StackAgrees

theorem memWrite_stkptr (s : State) {p : Byte} (h : p.extractLsb' 0 5 = s.sp) :
    s.StackAgrees (s.memWrite addrStkptr p) where
  sp := by rw [State.sp, stkptr, memRead_memWrite_same, h]
  cfg := rfl
  stack := rfl
  trace := rfl
  tw := rfl
  tr := rfl
  resetCount := rfl

variable {s u : State} (h : s.StackAgrees u)

include h

theorem stackUpdate (slots : Vector StackSlot stackDepth) {p q : Byte} (e : TraceEvent)
    (hpq : q.extractLsb' 0 5 = p.extractLsb' 0 5) :
    (s.stackUpdate slots p e).StackAgrees (u.stackUpdate slots q e) where
  sp := by rw [stackUpdate_sp, stackUpdate_sp, hpq]
  cfg := h.cfg
  stack := rfl
  trace := by simp only [State.stackUpdate, traceRecord_trace, memWrite_trace, memWrite_tw, h.trace, h.tw]
  tw := by simp only [State.stackUpdate, traceRecord_tw, memWrite_tw, h.tw]
  tr := by
    show (if u.tw + 1 = u.tr then u.tr + 1 else u.tr) = if s.tw + 1 = s.tr then s.tr + 1 else s.tr
    rw [h.tw, h.tr]
  resetCount := h.resetCount

theorem stackValue (n : Nat) : u.stackValue n = s.stackValue n := by
  simp only [State.stackValue, h.stack, h.cfg, h.resetCount]

theorem sp_or (mask : Byte) : (u.stkptr ||| mask).extractLsb' 0 5 = (s.stkptr ||| mask).extractLsb' 0 5 := by
  rw [BitVec.extractLsb'_or, BitVec.extractLsb'_or]
  exact congrArg (· ||| _) h.sp

theorem push (addr : Nat) : (s.push addr).StackAgrees (u.push addr) := by
  by_cases full : s.sp = 31#5
  · rw [push_of_full full, push_of_full (h.sp.trans full), h.stack]
    exact h.stackUpdate _ _ (h.sp_or _)
  · rw [push_of_room full, push_of_room (h.sp ▸ full), h.stack, h.sp]
    exact h.stackUpdate _ _ (by rw [withSp_sp, withSp_sp])

theorem pop : u.pop.2 = s.pop.2 ∧ s.pop.1.StackAgrees u.pop.1 := by
  by_cases empty : s.sp = 0#5
  · rw [pop_of_empty empty, pop_of_empty (h.sp.trans empty), h.stack]
    exact ⟨rfl, h.stackUpdate _ _ (h.sp_or _)⟩
  · rw [pop_of_ne empty, pop_of_ne (h.sp ▸ empty), h.stack, h.sp, h.stackValue]
    exact ⟨rfl, h.stackUpdate _ _ (by rw [withSp_sp, withSp_sp])⟩

theorem hostPush (addr : Int) :
    (hostExec (.push addr) u).2 = (hostExec (.push addr) s).2 ∧
    (hostExec (.push addr) s).1.StackAgrees (hostExec (.push addr) u).1 := by
  by_cases range : 0 ≤ addr ∧ addr < s.cfg.pmemBytes
  · lift addr to Nat using range.1
    have below : addr < s.cfg.pmemBytes := by exact_mod_cast range.2
    rw [hostExec_push_of_inRange below, hostExec_push_of_inRange (h.cfg ▸ below)]
    exact ⟨rfl, h.push addr⟩
  · rw [hostExec_push_of_not_inRange range, hostExec_push_of_not_inRange (h.cfg ▸ range)]
    exact ⟨rfl, h⟩

end State.StackAgrees

/-- Settles O57: an operation clears a sticky bit in the three ways only; and a state with another STKPTR but the same SP
agrees with the given one on all that Push and Pop read. -/
theorem stickyBitsAreClearedOnlyByDataWritesOrReset : Obligations.StickyBitsAreClearedOnlyByDataWritesOrReset := by
  refine ⟨fun op s bit hbit isSet => hostExec_clears_sticky op s hbit isSet, fun op s p hop hp => ?_⟩
  have agrees := State.StackAgrees.memWrite_stkptr s hp
  obtain rfl | ⟨addr, rfl⟩ := hop
  · obtain ⟨answer, after⟩ := agrees.pop
    exact ⟨congrArg HostAnswer.popped answer, after.sp, after.stack, after.trace, after.tw, after.tr⟩
  · obtain ⟨answer, after⟩ := agrees.hostPush addr
    exact ⟨answer, after.sp, after.stack, after.trace, after.tw, after.tr⟩

end Sys2Proof.Machine
end

section
/-! The program counter and the fetch of the step (spec 41_stack_pc_trace.md R104 to R107, R114). -/

namespace Sys2Proof.Machine

/-- PCAdvance is addition modulo PMEM_BYTES, for any integer (R106). -/
theorem State.pcAdvance_pc_cast (s : State) (delta : Int) :
    ((s.pcAdvance delta).pc : Int) = (s.pc + delta) % s.cfg.pmemBytes := by
  have size : (s.cfg.pmemBytes : Int) ≠ 0 := by exact_mod_cast (pmemBytes_pos s.cfg).ne'
  rw [pcAdvance_pc, Int.toNat_of_nonneg (Int.emod_nonneg _ size)]

/-- Settles O59: at the last address the sum is `delta - 1` after one turn around program memory. -/
theorem pcAdvanceIsModular : Obligations.PcAdvanceIsModular := by
  refine fun s delta => ⟨s.pcAdvance_pc_cast delta, rfl, fun last => ?_, rfl⟩
  have turn : (s.pc : Int) + delta = delta - 1 + s.cfg.pmemBytes := by omega
  exact (s.pcAdvance_pc_cast delta).trans (by rw [turn, Int.add_emod_right])

/-- Settles O19: a PC in range is fetched from the cell that contains it, and the second word modulo PMEM_BYTES. -/
theorem stepRunsTheDecodedInstruction : Obligations.StepRunsTheDecodedInstruction := by
  intro s i hpc hh hd
  rw [← s.pmRead_of_lt hpc] at hd
  exact step_of_decode hh hd

/-- A fetch address is reduced modulo PMEM_BYTES. -/
theorem State.pmRead_mod (s : State) (addr : Nat) : s.pmRead (addr % s.cfg.pmemBytes) = s.pmRead addr := by
  rw [pmRead, pmRead, Nat.mod_mod]

/-- Settles O31: the skip leaves program memory alone, so the step after it fetches the MOVFF's second word, which runs as
NOP (O6). -/
theorem skipPassesAWholeMovff : Obligations.SkipPassesAWholeMovff := by
  intro s t i _ _ _ hst hpc _ word2
  obtain ⟨hnext, running⟩ := hst
  obtain ⟨cfg, pm, -⟩ := stepsLeaveProgramStackAndTraceAlone s t hnext
  have fetched : t.fetch1 = s.pmRead (s.pc + 4) :=
    calc t.fetch1 = s.pmRead t.pc := by rw [State.fetch1, State.pmRead, State.pmRead, cfg, pm]
      _ = s.pmRead (s.pc + 4) := by rw [hpc, s.pmRead_mod]
  rw [movffSecondWordIsChecked.2 t running (fetched ▸ word2), cfg, hpc, Nat.mod_add_mod]

end Sys2Proof.Machine
end

section
/-! The arithmetic instructions (spec 43_arithmetic.md R118 to R122): each stores the result of the flag engine at its
destination and then all five flags. -/

namespace Sys2Proof.Machine

theorem flagsAdd_fst_of_no_carry (a b : Byte) : (flagsAdd a b false).1 = a + b := by
  simp [flagsAdd_fst]

/-- The tail of R118 and R120 to R122: a result of the flag engine stored per d, and its five flags. -/
theorem finishArith_storesByteAndFlags (f : Byte) (d : Dest) (a : Access) (s : State) {res : Byte × Flags} {r : Byte}
    (result : res.1 = r) :
    ∃ t, finishArith f d a res s = .next t ∧ s.StoresByteAndFlags t (destAddr f d a s) r 0x1F#8 res.2.pack :=
  result ▸ finish_statusUpdate s (destAddr f d a s) res.1 maskArith res.2.pack res.2 rfl

/-- Settles O32: the tail of R118 on the sum without a carry-in. -/
theorem addwfResultFlagsAndFrame : Obligations.AddwfResultFlagsAndFrame :=
  fun f d a s => finishArith_storesByteAndFlags f d a s (flagsAdd_fst_of_no_carry _ s.w)

/-- Settles O33: as for ADDWF, with W both the operand and the destination. -/
theorem addlwResultFlagsAndFrame : Obligations.AddlwResultFlagsAndFrame :=
  fun k s => flagsAdd_fst_of_no_carry s.w k ▸ finish_statusUpdate s addrWreg _ maskArith _ _ rfl

/-- Settles O34: the carry-in is read from the state before the write, so a STATUS destination does not disturb it. -/
theorem addwfcResultFlagsAndFrame : Obligations.AddwfcResultFlagsAndFrame :=
  fun f d a s => finishArith_storesByteAndFlags f d a s (flagsAdd_fst _ s.w (carryIn s))

/-- Settles O35: the tail of R118 on the sum with 1. -/
theorem incfResultFlagsAndFrame : Obligations.IncfResultFlagsAndFrame :=
  fun f d a s => finishArith_storesByteAndFlags f d a s (flagsAdd_fst_of_no_carry _ 1#8)

/-- Settles O36: the tail of R118 on the difference with 1. -/
theorem decfResultFlagsAndFrame : Obligations.DecfResultFlagsAndFrame :=
  fun f d a s => finishArith_storesByteAndFlags f d a s (flagsSub_fst _ 1#8)

end Sys2Proof.Machine
end

section
/-! The logic and clear instructions (spec 44_logic.md R123 to R128): each stores its result and then the Z and N of that
result, CLRF a zero and then Z alone. -/

namespace Sys2Proof.Machine

/-- Z and N at their STATUS positions (R21, R86). -/
theorem flagsLogic_pack (r : Byte) :
    (flagsLogic r).pack = (if r = 0#8 then 0x04#8 else 0#8) ||| (if r.getLsbD 7 then 0x10#8 else 0#8) := by
  simp [flagsLogic, Flags.pack, BitVec.msb_eq_getLsbD_last]

/-- The tail of R123 to R127, for a result stored in the file register or in W. -/
theorem finish_flagsLogic_storesByteAndFlags (s : State) (dst : DataAddr) (r : Byte) :
    ∃ t, finish (statusUpdate maskLogic (flagsLogic r) (s.memWrite dst r)) 2 false = .next t ∧
      s.StoresByteAndFlags t dst r 0x14#8
        ((if r = 0#8 then 0x04#8 else 0#8) ||| (if r.getLsbD 7 then 0x10#8 else 0#8)) :=
  flagsLogic_pack r ▸ finish_statusUpdate s dst r maskLogic _ (flagsLogic r) rfl

/-- Settles O37: the tail of R123 at the destination of d. -/
theorem andwfResultFlagsAndFrame : Obligations.AndwfResultFlagsAndFrame :=
  fun f d a s => finish_flagsLogic_storesByteAndFlags s (destAddr f d a s) (readFile f a s &&& s.w)

/-- Settles O38: the same tail, with W both the operand and the destination. -/
theorem andlwResultFlagsAndFrame : Obligations.AndlwResultFlagsAndFrame :=
  fun k s => finish_flagsLogic_storesByteAndFlags s addrWreg (s.w &&& k)

/-- Settles O39: the tail of R125 at the destination of d. -/
theorem iorwfResultFlagsAndFrame : Obligations.IorwfResultFlagsAndFrame :=
  fun f d a s => finish_flagsLogic_storesByteAndFlags s (destAddr f d a s) (readFile f a s ||| s.w)

/-- Settles O40: the same tail, with W both the operand and the destination. -/
theorem iorlwResultFlagsAndFrame : Obligations.IorlwResultFlagsAndFrame :=
  fun k s => finish_flagsLogic_storesByteAndFlags s addrWreg (s.w ||| k)

/-- Settles O41: the model's complement is the difference from 0xFF. -/
theorem comfResultFlagsAndFrame : Obligations.ComfResultFlagsAndFrame := by
  intro f d a s r
  have complement : ~~~(readFile f a s) = r := (BitVec.allOnes_sub_eq_not (readFile f a s)).symm
  exact complement ▸ finish_flagsLogic_storesByteAndFlags s (destAddr f d a s) (~~~(readFile f a s))

/-- Settles O42: Z alone is updated, after the zero is stored; so at STATUS the zero takes the Z bit. -/
theorem clrfResultFlagAndFrame : Obligations.ClrfResultFlagAndFrame := by
  intro f a s
  obtain ⟨t, next, stores⟩ := finish_statusUpdate s (effAddr f a s) 0#8 maskZ 0x04#8 flagsClear rfl
  refine ⟨t, next, stores, fun isStatus => ?_⟩
  rw [stores.status, if_pos isStatus]
  decide

end Sys2Proof.Machine
end

section
/-! The moves, the multiply and NOP (spec 45_move_multiply.md R129 to R134): each stores its Bytes and writes no flag, and a
MOVFF with a reserved operand faults before it stores. -/

namespace Sys2Proof.Machine

open State

/-- A one-word instruction that stores one Byte and never skips. -/
theorem finish_memWrite_oneWord (s : State) (dst : DataAddr) (r : Byte) :
    ∃ t, finish (s.memWrite dst r) 2 false = .next t ∧ s.StoresByte t dst r 2 :=
  finish_memWrite s dst r false

/-- Storing what the destination already holds changes no read. -/
theorem State.StoresByte.memRead_eq {s t : State} {dst : DataAddr} {n : Nat} (h : s.StoresByte t dst (s.memRead dst) n)
    (ea : DataAddr) : t.memRead ea = s.memRead ea := by
  by_cases hea : ea = dst
  · rw [hea, h.result]
  · exact h.others ea hea

/-- Settles O43: the Byte stored is the old value of f, so at d = 1 the cell gets back what it held. -/
theorem movfResultAndFrame : Obligations.MovfResultAndFrame := by
  intro f d a s
  obtain ⟨t, next, stores⟩ := finish_memWrite_oneWord s (destAddr f d a s) (readFile f a s)
  refine ⟨t, next, stores, ?_⟩
  rintro rfl
  exact stores.memRead_eq

/-- Settles O45: W is the Byte stored. -/
theorem movwfResultAndFrame : Obligations.MovwfResultAndFrame :=
  fun f a s => finish_memWrite_oneWord s (effAddr f a s) s.w

/-! ### MOVFF -/

theorem isMovffReserved_iff (addr : MovffAddr) : isMovffReserved addr = true ↔ addr ∈ movffReserved :=
  List.contains_iff_mem

section

variable {fs fd : MovffAddr} (s : State)

theorem execMovff_of_reserved_source (hs : fs ∈ movffReserved) :
    execMovff fs fd s = .next (s.raise (.invalidOperand .source fs)) :=
  if_pos ((isMovffReserved_iff fs).2 hs)

theorem execMovff_of_reserved_destination (hs : fs ∉ movffReserved) (hd : fd ∈ movffReserved) :
    execMovff fs fd s = .next (s.raise (.invalidOperand .destination fd)) := by
  simp [execMovff, isMovffReserved_iff, hs, hd]

theorem execMovff_of_not_reserved (hs : fs ∉ movffReserved) (hd : fd ∉ movffReserved) :
    execMovff fs fd s = finish (s.memWrite (movffAddr fd) (s.memRead (movffAddr fs))) 4 false := by
  simp [execMovff, isMovffReserved_iff, hs, hd]

end

/-- Settles O44: the three outcomes of R130, and the decoder's refusal of the second word (R67). -/
theorem movffResultFaultsAndFrame : Obligations.MovffResultFaultsAndFrame := by
  refine ⟨fun addr => by simp [movffReserved], fun fs fd s => ⟨?source, ?destination, ?copy, ?word2⟩⟩
  case source => exact execMovff_of_reserved_source s
  case destination => exact execMovff_of_reserved_destination s
  case copy =>
    intro hs hd
    obtain ⟨t, next, stores⟩ := finish_memWrite_twoWord s (movffAddr fd) (s.memRead (movffAddr fs))
    exact ⟨t, (execMovff_of_not_reserved s hs hd).trans next, stores⟩
  case word2 => exact fun _ _ => decode_of_movff_word2

/-! ### MULWF -/

/-- The low and the high Byte of a word make up the word. -/
theorem highByte_mul_add_lowByte (p : Word) : (p.extractLsb' 8 8).toNat * 256 + (p.extractLsb' 0 8).toNat = p.toNat := by
  simp only [BitVec.extractLsb'_toNat]
  omega

/-- Two Bytes multiply in 16 bits without overflow. -/
theorem setWidth_mul_setWidth_toNat (x y : Byte) : (x.setWidth 16 * y.setWidth 16).toNat = x.toNat * y.toNat := by
  have bound : x.toNat * y.toNat < 256 * 256 := Nat.mul_lt_mul'' x.isLt y.isLt
  simp [Nat.mod_eq_of_lt bound]

/-- A word stored in PRODL and PRODH, the low Byte first, before a one-word instruction ends (R26, R132). -/
theorem finish_memWrite_product (s : State) (p : Word) :
    ∃ t, finish ((s.memWrite addrProdl (p.extractLsb' 0 8)).memWrite addrProdh (p.extractLsb' 8 8)) 2 false = .next t ∧
      t.prodl = p.extractLsb' 0 8 ∧ t.prodh = p.extractLsb' 8 8 ∧
      (∀ ea, ea ≠ addrProdl → ea ≠ addrProdh → t.memRead ea = s.memRead ea) ∧
      t.pc = (s.pc + 2) % s.cfg.pmemBytes ∧ s.SameOutsideDataAndPc t := by
  obtain ⟨t, next, high⟩ :=
    finish_memWrite_oneWord (s.memWrite addrProdl (p.extractLsb' 0 8)) addrProdh (p.extractLsb' 8 8)
  refine ⟨t, next, ?_, high.result, fun ea hl hh => ?_, high.pc, ?_⟩
  · exact (high.others addrProdl (by decide)).trans (memRead_memWrite_same s addrProdl _)
  · exact (high.others ea hh).trans (memRead_memWrite_other s _ hl)
  · exact { high.rest with }

/-- Settles O46: the product is formed from the state before either write, and the two Bytes written make it up. -/
theorem mulwfProductAndFrame : Obligations.MulwfProductAndFrame := by
  intro f a s
  obtain ⟨t, next, low, high, frame⟩ := finish_memWrite_product s (s.w.setWidth 16 * (readFile f a s).setWidth 16)
  refine ⟨t, next, ?_, frame⟩
  rw [low, high, highByte_mul_add_lowByte, setWidth_mul_setWidth_toNat, readFile]

/-- Settles O47: NOP is the end of an instruction and nothing before it. -/
theorem nopOnlyAdvances : Obligations.NopOnlyAdvances :=
  fun _ s => ⟨finish_eq s 2 false, finish_eq s 2 false⟩

end Sys2Proof.Machine
end

section
/-! The skips (spec 46_skip.md R135 to R141): each ends a one-word instruction with its skip condition, the increments and
decrements after storing their result, the compares after storing nothing. -/

namespace Sys2Proof.Machine

/-! ### When the stored result is 0 -/

theorem add_one_eq_zero_iff (x : Byte) : x + 1#8 = 0#8 ↔ x = 0xFF#8 := add_eq_zero_iff_eq_neg

theorem sub_one_eq_zero_iff (x : Byte) : x - 1#8 = 0#8 ↔ x = 0x01#8 := sub_eq_zero

/-! ### A one-word instruction that skips exactly when a condition holds -/

section

variable (s : State) {p q : Prop} [Decidable p] [Decidable q]

/-- The end alone (R107, R114): the PC moves over one word, or over two for a taken skip. -/
theorem finish_oneWord_of_iff (skips : p ↔ q) :
    finish s 2 (decide p) = .next { s with pc := (s.pc + if q then 4 else 2) % s.cfg.pmemBytes } := by
  have distance : (s.pc + 2 + if decide p then 2 else 0) = s.pc + if q then 4 else 2 := by
    by_cases hq : q <;> simp [skips, hq]
  exact distance ▸ finish_eq s 2 (decide p)

variable (dst : DataAddr) (r : Byte)

/-- The end after one Byte is stored: a skip exactly when `q` holds. -/
theorem finish_memWrite_of_iff (skips : p ↔ q) :
    ∃ t, finish (s.memWrite dst r) 2 (decide p) = .next t ∧ s.StoresByte t dst r (if q then 4 else 2) := by
  have distance : (if decide p then 4 else 2) = if q then 4 else 2 := if_congr (decide_eq_true_iff.trans skips) rfl rfl
  exact distance ▸ finish_memWrite s dst r (decide p)

/-- The end after one Byte is stored: a skip exactly unless `q` holds. -/
theorem finish_memWrite_of_iff_not (skips : p ↔ ¬ q) :
    ∃ t, finish (s.memWrite dst r) 2 (decide p) = .next t ∧ s.StoresByte t dst r (if q then 2 else 4) :=
  ite_not q 4 2 ▸ finish_memWrite_of_iff s dst r skips

end

/-- Settles O48: the skip is taken on a result of 0, which 0xFF + 1 alone gives. -/
theorem incfszResultSkipAndFrame : Obligations.IncfszResultSkipAndFrame :=
  fun f d a s => finish_memWrite_of_iff s (destAddr f d a s) _ (add_one_eq_zero_iff (readFile f a s))

/-- Settles O49: the skip is taken on a result of 0, which 1 - 1 alone gives. -/
theorem decfszResultSkipAndFrame : Obligations.DecfszResultSkipAndFrame :=
  fun f d a s => finish_memWrite_of_iff s (destAddr f d a s) _ (sub_one_eq_zero_iff (readFile f a s))

/-- Settles O50: the opposite condition to INCFSZ. -/
theorem infsnzResultSkipAndFrame : Obligations.InfsnzResultSkipAndFrame :=
  fun f d a s => finish_memWrite_of_iff_not s (destAddr f d a s) _ (add_one_eq_zero_iff (readFile f a s)).not

/-- Settles O51: the opposite condition to DECFSZ. -/
theorem dcfsnzResultSkipAndFrame : Obligations.DcfsnzResultSkipAndFrame :=
  fun f d a s => finish_memWrite_of_iff_not s (destAddr f d a s) _ (sub_one_eq_zero_iff (readFile f a s)).not

/-- Settles O52: each compare is the end alone; Bytes are equal exactly when their unsigned values are. -/
theorem compareSkipsChangeOnlyThePc : Obligations.CompareSkipsChangeOnlyThePc := by
  intro f a s x w moved
  refine ⟨?cpfseq, ?cpfsgt, ?cpfslt⟩
  case cpfseq => exact finish_oneWord_of_iff s BitVec.toNat_inj.symm
  case cpfsgt => exact finish_oneWord_of_iff s Iff.rfl
  case cpfslt => exact finish_oneWord_of_iff s Iff.rfl

end Sys2Proof.Machine
end

section
/-! The exceptions (spec 60_exceptions.md): which words the decoder does not recognise (R142), that a step fault sets the latch
alone (R146), in which order the step checks (R149), and that the latch stops Step and no other operation (R145). -/

namespace Sys2Proof.Machine

open State

/-! ### Words that do not decode (R67, R142) -/

/-- A failed decode is that of a MOVFF with a wrong second word, or of a first word that begins no MOVFF. -/
theorem decode_error_cases {w1 w2 : Word} {e : DecodeError} (h : decode w1 w2 = .error e) :
    (w1.extractLsb' 12 4 = 0b1100#4 ∧ e = .movffWord2 w2) ∨ (w1.extractLsb' 12 4 ≠ 0b1100#4 ∧ e = .unsupported w1) := by
  unfold decode at h
  split at h
  next => cases h
  split at h
  next => cases h
  split at h
  next movff =>
    split at h
    next => cases h
    next => cases h; exact .inl ⟨movff, rfl⟩
  next other =>
    split at h
    next => cases h
    next => cases h; exact .inr ⟨other, rfl⟩

/-- A first word that begins a MOVFF selects MOVFF's row, whatever its second word. -/
theorem exists_row_selects_of_movff {w1 : Word} (h : w1.extractLsb' 12 4 = 0b1100#4) : ∃ r ∈ opcodeMap, r.selects w1 := by
  obtain ⟨r, mem, selects, -⟩ := exists_row_selects_encode (.movff (w1.extractLsb' 0 12) 0#12)
  rw [encode, append_fields_of_extractLsb' h] at selects
  exact ⟨r, mem, selects⟩

/-- A word outside the map does not decode (O4), and it begins no MOVFF. -/
theorem decode_of_not_selects {w1 : Word} (h : ∀ r ∈ opcodeMap, ¬ r.selects w1) (w2 : Word) :
    decode w1 w2 = .error (.unsupported w1) := by
  cases hd : decode w1 w2 with
  | ok i =>
    obtain ⟨r, mem, selects, -⟩ := decodeAgreesWithTheOpcodeMap.1 w1 w2 i hd
    exact absurd selects (h r mem)
  | error e =>
    obtain ⟨movff, -⟩ | ⟨-, rfl⟩ := decode_error_cases hd
    · obtain ⟨r, mem, selects⟩ := exists_row_selects_of_movff movff
      exact absurd selects (h r mem)
    · rfl

/-- A word of the map decodes, or is a MOVFF whose second word is at fault (O4). -/
theorem decode_ne_unsupported_of_selects {r : OpcodeRow} (hr : r ∈ opcodeMap) {w1 : Word} (h : r.selects w1)
    (w2 e : Word) : decode w1 w2 ≠ .error (.unsupported e) := by
  intro unsupported
  have agrees := decodeAgreesWithTheOpcodeMap.2.1 r hr w1 w2 h
  rw [unsupported] at agrees
  split at agrees
  next => cases agrees
  next =>
    obtain ⟨_, ok, -⟩ := agrees
    cases ok

/-! ### The host's Step, by what the step answers (R114) -/

theorem hostExec_step_of_next {s t : State} (h : step s = .next t) : hostExec .step s = (t, .stepped t.halted) := by
  simp only [hostExec, hostStep, h]

theorem hostExec_step_of_halted {s : State} {r : FaultRecord} (h : s.halted = some r) :
    hostExec .step s = (s, .stepped (some r)) := by
  simp only [hostExec, hostStep, step_of_halted h]

/-- Settles O25: a step raises a fault and does nothing else, or leaves the latch clear as it was. -/
theorem stepFaultsArePrecise : Obligations.StepFaultsArePrecise := by
  intro s t r running next faulted
  have report := hostExec_step_of_next next
  rw [faulted] at report
  obtain ⟨k, rfl⟩ | ⟨cells, n, rfl⟩ := eq_raise_or_memWrites_of_step next
  · cases faulted
    exact ⟨rfl, rfl, report⟩
  · have clear := (sameOutside_pcAdvance s _ n (sameOutside_memWrites s s cells (sameOutside_refl s))).halted
    rw [faulted, running] at clear
    cases clear

/-- Settles O26: the decoder checks the words of a MOVFF before the instruction checks its operands, the source first. -/
theorem faultPriority : Obligations.FaultPriority := by
  intro s w1 w2 report
  have undecoded {e : DecodeError} (running : s.halted = none) (hd : decode w1 w2 = .error e) :
      hostExec .step s = report (.ofDecode e) := hostExec_step_of_next (step_of_decode_error running hd)
  refine ⟨fun r => hostExec_step_of_halted, fun running => ⟨fun movff => ⟨fun wrong => ?word2, fun word2 => ?operands⟩,
    fun other undefined => ?unsupported⟩⟩
  case word2 => exact undecoded running (decode_of_movff_word2 movff wrong)
  case operands =>
    have runs := step_of_decode running (decode_of_movff movff word2)
    exact ⟨fun hs => hostExec_step_of_next (runs.trans (execMovff_of_reserved_source s hs)),
      fun hs hd => hostExec_step_of_next (runs.trans (execMovff_of_reserved_destination s hs hd))⟩
  case unsupported =>
    cases hd : decode w1 w2 with
    | ok i => exact absurd hd (undefined i)
    | error e =>
      obtain ⟨movff, -⟩ | ⟨-, rfl⟩ := decode_error_cases hd
      · exact absurd movff other
      · exact undecoded running hd

/-! ### Operations under another latch -/

/-- The state with another value in the latch (R35). -/
def State.withLatch (s : State) (latch : Option FaultRecord) : State := { s with halted := latch }

section

variable (s : State) (latch : Option FaultRecord)

theorem push_withLatch (addr : Nat) : (s.withLatch latch).push addr = (s.push addr).withLatch latch := by
  by_cases full : s.sp = 31#5
  · rw [push_of_full full, push_of_full (s := s.withLatch latch) full]
    rfl
  · rw [push_of_room full, push_of_room (s := s.withLatch latch) full]
    rfl

theorem pop_withLatch : (s.withLatch latch).pop = (s.pop.1.withLatch latch, s.pop.2) := by
  by_cases empty : s.sp = 0#5
  · rw [pop_of_empty empty, pop_of_empty (s := s.withLatch latch) empty]
    rfl
  · rw [pop_of_ne empty, pop_of_ne (s := s.withLatch latch) empty]
    rfl

theorem traceRead_withLatch : (s.withLatch latch).traceRead = (s.traceRead.1.withLatch latch, s.traceRead.2) := by
  by_cases exhausted : s.tr = s.tw
  · rw [s.traceRead_of_eq exhausted, (s.withLatch latch).traceRead_of_eq exhausted]
  · rw [s.traceRead_of_ne exhausted, (s.withLatch latch).traceRead_of_ne exhausted]
    rfl

/-- The latch is read by Step alone and written by Step and Reset alone: any other operation does to the rest of the state, and
answers, what it would under another latch, which it leaves. The range checks read the arguments and PMEM_BYTES. -/
theorem hostExec_withLatch {op : HostOp} (hreset : op ≠ .reset) (hstep : op ≠ .step) :
    hostExec op (s.withLatch latch) = ((hostExec op s).1.withLatch latch, (hostExec op s).2) := by
  have cfg : (s.withLatch latch).cfg = s.cfg := rfl
  cases op with
  | reset => exact absurd rfl hreset
  | step => exact absurd rfl hstep
  | pcRead | pcAdvance _ => rfl
  | pop => simp only [hostExec_pop, pop_withLatch]
  | traceRead => simp only [hostExec_traceRead, traceRead_withLatch]
  | push addr =>
    simp only [hostExec, hostPush, cfg, push_withLatch]
    split <;> rfl
  | pmReadHost addr =>
    simp only [hostExec, hostPmRead, cfg]
    split <;> rfl
  | dmRead addr =>
    simp only [hostExec, hostDmRead]
    split <;> rfl
  | pmWrite addr v =>
    simp only [hostExec, hostPmWrite, cfg]
    split
    · rfl
    split <;> rfl
  | dmWrite addr v =>
    simp only [hostExec, hostDmWrite]
    split
    · rfl
    split <;> rfl

/-- So the latch stays what it was: the state is itself under its own latch. -/
theorem hostExec_halted {op : HostOp} (hreset : op ≠ .reset) (hstep : op ≠ .step) : (hostExec op s).1.halted = s.halted :=
  congrArg (·.1.halted) (hostExec_withLatch s s.halted hreset hstep)

end

/-- Settles O21: Step answers the record and does nothing else, and every other operation but Reset leaves the latch and does
not look at it. -/
theorem haltedBlockStaysHaltedUntilReset : Obligations.HaltedBlockStaysHaltedUntilReset := by
  intro s r hh
  refine ⟨step_of_halted hh, hostExec_step_of_halted hh, fun op hreset => ?_, rfl,
    fun op hreset hstep => hostExec_withLatch s none hreset hstep⟩
  by_cases hstep : op = .step
  · rw [hstep, hostExec_step_of_halted hh, hh]
  · rw [hostExec_halted s hreset hstep, hh]

/-- Settles O5: the words outside the map are those the decoder refuses by their first word; an operation that is not Step
clears the latch, if it is Reset, or leaves it. -/
theorem unsupportedWordLatchesAndWritesNothing : Obligations.UnsupportedWordLatchesAndWritesNothing := by
  refine ⟨fun w1 w2 => ⟨?inside, fun outside => ⟨w1, decode_of_not_selects outside w2⟩⟩,
    fun s running outside => step_of_decode_error running (decode_of_not_selects outside s.fetch2),
    fun op s r hstep latched => ?latch⟩
  case inside =>
    rintro ⟨e, unsupported⟩ r hr selects
    exact decode_ne_unsupported_of_selects hr selects w2 e unsupported
  case latch =>
    by_cases hreset : op = .reset
    · subst hreset
      cases latched
    · rwa [hostExec_halted s hreset hstep] at latched

end Sys2Proof.Machine
end

section
/-! The words of the spec's decode table (95_test_vectors.md 2.10), and the decoder as the inverse of the encoder
(30_encoding.md sections 1 to 4). -/

namespace Sys2Proof

/-- Settles O1: eleven closed words, which the decoder evaluates. -/
theorem decodeReadsTheSpecWords : Obligations.DecodeReadsTheSpecWords :=
  ⟨rfl, rfl, rfl, rfl, rfl, rfl, rfl, rfl, rfl, rfl, rfl⟩

/-- Settles O3: the encoding is the first word alone, or both words. -/
theorem encodeOfDecodeIsTheWords : Obligations.EncodeOfDecodeIsTheWords := by
  intro w1 w2 i hd
  obtain one | two := encode_of_decode hd
  · rw [one]
    exact ⟨rfl, nofun⟩
  · rw [two]
    exact ⟨rfl, fun _ second => (Option.some.inj second).symm⟩

end Sys2Proof
end

section
/-! The parity of the PC (92_eei_decisions.md D29): every width is even, a skip adds 2, and PMEM_BYTES is even, so that the
reduction keeps the parity too. -/

namespace Sys2Proof.Machine

/-- An instruction is two words or one, of 2 bytes each (R66). -/
theorem two_dvd_width (i : Instr) : 2 ∣ i.width := by
  cases i with
  | movff fs fd => exact ⟨2, rfl⟩
  | _ => exact ⟨1, rfl⟩

/-- Reducing an address modulo PMEM_BYTES keeps its bit 0. -/
theorem mod_pmemBytes_mod_two (addr : Nat) (c : Config) : addr % c.pmemBytes % 2 = addr % 2 :=
  Nat.mod_mod_of_dvd addr (Nat.dvd_mul_right 2 c.pmemWords)

/-- An instruction keeps bit 0 of the PC, whether it faults or ends. -/
theorem exec_pc_mod_two {i : Instr} {s t : State} (h : exec i s = .next t) : t.pc % 2 = s.pc % 2 := by
  obtain ⟨k, fault⟩ | ⟨u, skip, ends, pc, -, -⟩ := exec_eq_raise_or_finish i s
  · cases fault.symm.trans h
    rfl
  · cases (ends.trans (finish_eq u i.width skip)).symm.trans h
    have width := two_dvd_width i
    rw [mod_pmemBytes_mod_two, pc]
    split <;> omega

/-- Settles O30: a step that answers a next state ran an instruction, or its decoder faulted, which leaves the PC. -/
theorem stepsKeepThePcEven : Obligations.StepsKeepThePcEven := by
  intro s t even h
  cases hh : s.halted with
  | some r => simp [step_of_halted hh] at h
  | none =>
    cases hd : decode s.fetch1 s.fetch2 with
    | error e =>
      rw [step_of_decode_error hh hd] at h
      cases h
      exact even
    | ok i =>
      rw [step_of_decode hh hd] at h
      exact (exec_pc_mod_two h).trans even

end Sys2Proof.Machine
end

section
/-! Reset and power-on (70_reset_and_hazards.md R159, R160). -/

namespace Sys2Proof.Machine

theorem State.powerOn_stack_slot (cfg : Config) (i : Fin stackDepth) : (State.powerOn cfg).stack[i.val] = .unwritten :=
  Vector.getElem_replicate i.isLt

/-- With both cursors at 0 nothing is unread. -/
theorem State.powerOn_unread (cfg : Config) : (State.powerOn cfg).unread = [] := (unread_eq_nil_iff _).mpr rfl

/-- Settles O60: Reset gives every field but program memory and the draw index its power-on value, and an empty memory reads
as 0 everywhere. -/
theorem resetClearsAllButProgramMemory : Obligations.ResetClearsAllButProgramMemory :=
  ⟨fun s => ⟨s.memRead_doReset, rfl, State.powerOn_stack_slot s.cfg, rfl, rfl, State.powerOn_unread s.cfg, rfl, rfl, rfl⟩,
    fun cfg => ⟨fun _ => rfl, rfl, State.powerOn_stack_slot cfg, rfl, rfl, State.powerOn_unread cfg, rfl, fun _ => rfl, rfl⟩,
    Config.testVectors, rfl⟩

end Sys2Proof.Machine
end
